-- ==== Sys2Proof/Word.lean ====
section
/-! DEFINITION. The widths of the block's words and registers (spec/00_scope.md R5, R6). -/
namespace Sys2Proof

/-- One bit: a chaotic bit, a raw bit, a flag (R6). -/
abbrev Bit := Bool

/-- One byte of a byte-wide transport (R52). -/
abbrev Byte := BitVec 8

/-- A 32-bit command or response word, `CMD_W` and `RSP_W` of R5. -/
abbrev Word := BitVec 32

/-- A 16-bit register, immediate or read value: `LFSR_W`, `REQ_W`, `BATCHES_W` of R5. -/
abbrev Half := BitVec 16

/-- A 32-bit wrapping event counter, `CNT_W` of R5. -/
abbrev Count := BitVec 32

/-- A position in a batch, `BPOS_W` of R5: it holds 0 .. 3·65535 − 1, and 3·65535 itself fits. -/
abbrev Pos := BitVec 18

/-- The five sticky error bits (R31). -/
abbrev ErrBits := BitVec 5

/-- The selector of `RDREG` (R33). -/
abbrev Sel := BitVec 8

/-- A one-bit value zero-extended to 16 bits (`zext_N` of R6). -/
def Bit.toHalf (b : Bit) : Half := if b then 1 else 0

end Sys2Proof
end

