-- ==== Sys2Proof/Syntax.lean ====
section
/-! DEFINITION. The ten commands of spec/30_encoding.md R72, one constructor each. -/
namespace Sys2Proof

/-- A decoded command. Every operand has exactly the width its field has in R70, so an operand
out of range cannot be written down. -/
inductive Instr where
  /-- `NOP` (R190). -/
  | nop
  /-- `SEED imm`, the 16-bit sub-seed (R104). -/
  | seed (imm : Half)
  /-- `LSTEP` (R105). -/
  | lstep
  /-- `RAW b`, the chaotic bit (R141). -/
  | raw (b : Bit)
  /-- `EXT b`, the data bit (R122). -/
  | ext (b : Bit)
  /-- `EFLUSH` (R123). -/
  | eflush
  /-- `BREQ imm`, the count (R161). -/
  | breq (imm : Half)
  /-- `BSTEP b`, the chaotic bit (R162). -/
  | bstep (b : Bit)
  /-- `BABORT` (R163). -/
  | babort
  /-- `RDREG sel` (R191). Selectors 11 .. 255 are commands too: they report ILLEGAL when run (R75). -/
  | rdreg (sel : Sel)
  deriving DecidableEq, Repr

end Sys2Proof
end

