-- ==== Sys2Proof/WellFormed.lean ====
section
/-! DEFINITION. When the fields of a command word form a command: the strict checks of
spec/30_encoding.md R74. The operands of `Instr` need no check (their types are the fields' widths),
so the terms that can be ill-formed are the five raw fields of a word. -/
namespace Sys2Proof

/-- The five fields of R70, as a word carries them. -/
structure CmdFields where
  op  : BitVec 4
  b   : Bit
  rsv : BitVec 3
  sel : Sel
  imm : Half
  deriving DecidableEq, Repr

/-- Opcodes 0x0 .. 0x9 are used, 0xA .. 0xF are reserved (R72). -/
def opUsed (op : BitVec 4) : Bool := op.toNat ≤ 9

/-- `RAW`, `EXT` and `BSTEP` read B (R70, R72). -/
def opUsesB (op : BitVec 4) : Bool := op == 0x3#4 || op == 0x4#4 || op == 0x7#4

/-- `RDREG` reads SEL (R70, R72). -/
def opUsesSel (op : BitVec 4) : Bool := op == 0x9#4

/-- `SEED` and `BREQ` read IMM (R70, R72). -/
def opUsesImm (op : BitVec 4) : Bool := op == 0x1#4 || op == 0x6#4

/-- R74: the opcode is used, and every field it does not use is 0. -/
def CmdFields.wellFormed (f : CmdFields) : Bool :=
  opUsed f.op && f.rsv == 0 && (opUsesB f.op || !f.b) && (opUsesSel f.op || f.sel == 0) &&
    (opUsesImm f.op || f.imm == 0)

/-- Why the decoder refuses what it is given. -/
inductive Reject where
  /-- Not four bytes: "a partial word is never a command" (R54). -/
  | partialWord
  /-- Opcode 0xA .. 0xF (R75). -/
  | reservedOpcode
  /-- A used opcode with a field that is not 0 although the opcode does not use it (R74). -/
  | unusedFieldSet
  deriving DecidableEq, Repr

end Sys2Proof
end

