-- ==== Sys2Proof/Decode.lean ====
section
/-! DEFINITION. Words to commands and back (spec/30_encoding.md R70 to R77, spec/20_memory.md R52, R54). -/
namespace Sys2Proof

/-! The fields of a command word (R70, R73). -/

/-- OP, bits 3:0. -/
def cmdOp (w : Word) : BitVec 4 := w.extractLsb' 0 4
/-- B, bit 4. -/
def cmdB (w : Word) : Bit := w.getLsbD 4
/-- RSV, bits 7:5. -/
def cmdRsv (w : Word) : BitVec 3 := w.extractLsb' 5 3
/-- SEL, bits 15:8. -/
def cmdSel (w : Word) : Sel := w.extractLsb' 8 8
/-- IMM, bits 31:16. -/
def cmdImm (w : Word) : Half := w.extractLsb' 16 16

/-- All five fields of a word. -/
def fieldsOf (w : Word) : CmdFields :=
  { op := cmdOp w, b := cmdB w, rsv := cmdRsv w, sel := cmdSel w, imm := cmdImm w }

/-- One row of the opcode map of R72. -/
structure OpcodeRow where
  pattern : Word
  mask    : Word
  build   : Word → Instr

/-- `(w & mask) = match` of R72. -/
def OpcodeRow.selects (r : OpcodeRow) (w : Word) : Bool := w &&& r.mask == r.pattern

/-- The opcode map of R72, in the order of the opcode. -/
def opcodeRows : List OpcodeRow :=
  [ { pattern := 0x00000000, mask := 0xFFFFFFFF, build := fun _ => .nop },
    { pattern := 0x00000001, mask := 0x0000FFFF, build := fun w => .seed (cmdImm w) },
    { pattern := 0x00000002, mask := 0xFFFFFFFF, build := fun _ => .lstep },
    { pattern := 0x00000003, mask := 0xFFFFFFEF, build := fun w => .raw (cmdB w) },
    { pattern := 0x00000004, mask := 0xFFFFFFEF, build := fun w => .ext (cmdB w) },
    { pattern := 0x00000005, mask := 0xFFFFFFFF, build := fun _ => .eflush },
    { pattern := 0x00000006, mask := 0x0000FFFF, build := fun w => .breq (cmdImm w) },
    { pattern := 0x00000007, mask := 0xFFFFFFEF, build := fun w => .bstep (cmdB w) },
    { pattern := 0x00000008, mask := 0xFFFFFFFF, build := fun _ => .babort },
    { pattern := 0x00000009, mask := 0xFFFF00FF, build := fun w => .rdreg (cmdSel w) } ]

/-- Which of the two illegal kinds a word that no row selects is (R75). -/
def rejectOf (w : Word) : Reject :=
  if opUsed (cmdOp w) then .unusedFieldSet else .reservedOpcode

/-- R76: total; the row that selects the word gives the command, and no row means ILLEGAL. -/
def decode (w : Word) : Except Reject Instr :=
  match opcodeRows.find? (fun r => r.selects w) with
  | some r => .ok (r.build w)
  | none => .error (rejectOf w)

/-! Encoding (the word column of R77). -/

/-- A 16-bit immediate in bits 31:16. -/
def immField (imm : Half) : Word := imm.setWidth 32 <<< 16
/-- A selector in bits 15:8. -/
def selField (sel : Sel) : Word := sel.setWidth 32 <<< 8
/-- A bit operand in bit 4. -/
def bField (b : Bit) : Word := (BitVec.ofBool b).setWidth 32 <<< 4

/-- The word of each command (R77). -/
def encode : Instr → Word
  | .nop => 0x00000000
  | .seed imm => immField imm ||| 0x1
  | .lstep => 0x00000002
  | .raw b => bField b ||| 0x3
  | .ext b => bField b ||| 0x4
  | .eflush => 0x00000005
  | .breq imm => immField imm ||| 0x6
  | .bstep b => bField b ||| 0x7
  | .babort => 0x00000008
  | .rdreg sel => selField sel ||| 0x9

/-! The byte transport of R52, for either kind of word: byte 0 is bits 7:0. -/

/-- The four bytes of a word, the first at the lowest address. -/
def bytesOfWord (w : Word) : List Byte :=
  [w.extractLsb' 0 8, w.extractLsb' 8 8, w.extractLsb' 16 8, w.extractLsb' 24 8]

/-- The word of four bytes; fewer or more bytes are no word (R54). -/
def wordOfBytes : List Byte → Option Word
  | [b0, b1, b2, b3] => some (b3 ++ b2 ++ b1 ++ b0)
  | _ => none

/-- The command that the bytes of one transaction carry, rejected by name otherwise. -/
def decodeBytes (bs : List Byte) : Except Reject Instr :=
  match wordOfBytes bs with
  | some w => decode w
  | none => .error .partialWord

/-- A table word of `nbits` bits as the 32-bit command word it stands for: the bits above are 0. -/
def tableWord (nbits w : Nat) : Word := BitVec.ofNat 32 (w % 2 ^ nbits)

/-- The command the decoder reads from a word numbered as spec/opcode_table.json numbers it, laid
out in the byte order of R52. -/
def decodeTableWord (nbits w : Nat) : Option Instr :=
  match decodeBytes (bytesOfWord (tableWord nbits w)) with
  | .ok i => some i
  | .error _ => none

end Sys2Proof
end

