-- ==== Sys2Proof/Config.lean ====
section
/-! DEFINITION. What is fixed for one instance of the block: the parameters of spec/00_scope.md R5. -/
namespace Sys2Proof

/-- The model argument of R5. `maxBatches` is `MAX_BATCHES`, 0 .. 65535, where 0 is unbounded (D16).
No command and no reset writes it (R5, R251). It is carried beside the registers, so every
statement about every state is a statement about every value of it (log entry 1). -/
structure Config where
  maxBatches : Half
  deriving DecidableEq, Repr

/-- The default of R5: unbounded, the document's own behaviour. -/
def Config.default : Config := { maxBatches := 0 }

/-- `K_OVER` of R5: raw bits per requested balanced bit and batch. -/
abbrev kOver : Nat := 3

/-- The step cap of the host's trajectory (spec/44_control.md R193). -/
abbrev trajectoryCap : Nat := 1000

end Sys2Proof
end

