-- ==== Sys2Proof/Machine/State.lean ====
section
/-! DEFINITION. The block's state (spec/10_state.md R20), its ports (R37), its status codes and
response fields (R71, R220), the reasons a step can stop, and the state after reset. -/
namespace Sys2Proof.Machine

/-- The architectural registers: the table of R20, and no other. -/
structure Regs where
  /-- `LFSR` (R21). -/
  lfsr    : Half
  /-- `SEEDED` (R23). -/
  seeded  : Bit
  /-- `PV`: the extractor holds the first bit of a pair (R24). -/
  pv      : Bit
  /-- `PB`: that bit (R24). -/
  pb      : Bit
  /-- `RAWCNT` (R25). -/
  rawcnt  : Count
  /-- `BALCNT` (R26). -/
  balcnt  : Count
  /-- `BUSY` (R27). -/
  busy    : Bit
  /-- `REQ` (R27). -/
  req     : Half
  /-- `COLL` (R28). -/
  coll    : Half
  /-- `BPOS` (R29). -/
  bpos    : Pos
  /-- `BATCHES` (R30). -/
  batches : Half
  /-- `ERRS` (R31). -/
  errs    : ErrBits
  deriving DecidableEq, Repr

/-- The reset column of R20, which R250 repeats. -/
def Regs.reset : Regs :=
  { lfsr := 0x0001, seeded := false, pv := false, pb := false, rawcnt := 0, balcnt := 0,
    busy := false, req := 0, coll := 0, bpos := 0, batches := 0, errs := 0 }

/-- The status codes of R220. Codes 6 and 7 are never produced. -/
inductive Status where
  | ok
  | illegal
  | noseed
  | busy
  | idle
  | exhausted
  deriving DecidableEq, Repr

/-- The arguments of `respond` in R7: everything of a response word but its BUSY field, which is
always `BUSY` after the command. An omitted argument is 0. -/
structure Response where
  ov   : Bit := false
  ob   : Bit := false
  done : Bit := false
  st   : Status := .ok
  data : Half := 0
  deriving DecidableEq, Repr

/-- What the host can do at the ports `cmd` and `rst` of R37. -/
inductive HostInput where
  /-- One whole command word at `cmd`. -/
  | cmd (w : Word)
  /-- A reset request at `rst`. -/
  | rst
  deriving DecidableEq, Repr

/-- The block, the parameter it was built with, and its two word ports. `pending` and `rsp` are the
model's own fields (log entry 2): what the host has presented and the block has not taken yet, oldest
first, and every response word the block has returned, oldest first. The block itself keeps
neither (R35, R39). -/
structure State where
  regs    : Regs
  cfg     : Config
  pending : List HostInput
  rsp     : List Word
  deriving DecidableEq, Repr

/-- No step of this block stops with a fault: an error is a status code in the response, and the
next command executes normally (R221, R225). Nothing raises a constructor of this type, since it has
none (log entry 5). -/
inductive Fault where
  deriving DecidableEq, Repr

/-- No step of this block is refused: every command and every illegal word has its effect. -/
inductive Refusal where
  /-- The name the interface gives to an instruction without a meaning. Raised by nobody here: every
  arm of `exec` has its meaning. It would be safe. -/
  | notModelled (mnemonic : String)
  deriving DecidableEq, Repr

/-- The machine right after reset (R250): the registers of R20, the default parameter of R5, nothing
presented and nothing returned yet. -/
def State.reset : State :=
  { regs := Regs.reset, cfg := Config.default, pending := [], rsp := [] }

/-- The three outcomes of a step of this machine. -/
abbrev Result := Host.Outcome State Fault Refusal

end Sys2Proof.Machine
end

