-- ==== Sys2Proof/Machine/Flags.lean ====
section
/-! DEFINITION. Status codes, sticky error bits, the STATUS view and the response word
(spec/30_encoding.md R71, spec/10_state.md R31, R32, spec/60_exceptions.md R220). -/
namespace Sys2Proof.Machine

/-- The ST column of R220. -/
def Status.code : Status → BitVec 3
  | .ok => 0
  | .illegal => 1
  | .noseed => 2
  | .busy => 3
  | .idle => 4
  | .exhausted => 5

/-- The ERRS bit of a status (R31): code k sets `ERRS[k−1]`, and OK sets none. -/
def Status.errBit : Status → ErrBits
  | .ok => 0b00000
  | .illegal => 0b00001
  | .noseed => 0b00010
  | .busy => 0b00100
  | .idle => 0b01000
  | .exhausted => 0b10000

/-- Setting the sticky bit of a reported status; no bit is cleared (R31). -/
def Regs.setErr (e : Status) (r : Regs) : Regs := { r with errs := r.errs ||| e.errBit }

/-- The 16-bit STATUS view of R32: bits 15:13 and 7:4 are 0. -/
def Regs.status (r : Regs) : Half :=
  0#3 ++ r.errs ++ 0#4 ++ BitVec.ofBool r.pb ++ BitVec.ofBool r.pv ++ BitVec.ofBool r.busy ++
    BitVec.ofBool r.seeded

/-- The response word of R71, with the value of `BUSY` after the command. Bits 15:7 are 0. -/
def Response.word (x : Response) (busy : Bit) : Word :=
  x.data ++ 0#9 ++ x.st.code ++ BitVec.ofBool busy ++ BitVec.ofBool x.done ++ BitVec.ofBool x.ob ++
    BitVec.ofBool x.ov

/-- `respond()` or `respond(OV = 1, OB = e)` (R122, R162): OB is 0 when there is no output bit. -/
def Response.emit (e : Option Bit) : Response := { ov := e.isSome, ob := e.getD false }

/-! Reading the fields of a response word (R71). -/

/-- OV, bit 0. -/
def rspOv (w : Word) : Bit := w.getLsbD 0
/-- OB, bit 1. -/
def rspOb (w : Word) : Bit := w.getLsbD 1
/-- DONE, bit 2. -/
def rspDone (w : Word) : Bit := w.getLsbD 2
/-- BUSY, bit 3. -/
def rspBusy (w : Word) : Bit := w.getLsbD 3
/-- ST, bits 6:4. -/
def rspSt (w : Word) : BitVec 3 := w.extractLsb' 4 3
/-- The reserved bits 15:7. -/
def rspRsv (w : Word) : BitVec 9 := w.extractLsb' 7 9
/-- DATA, bits 31:16. -/
def rspData (w : Word) : Half := w.extractLsb' 16 16

/-- The output bits of responses, in command order: the OB of each with OV = 1 (R53). -/
def outputBits : List Word → List Bit
  | [] => []
  | w :: ws => if rspOv w then rspOb w :: outputBits ws else outputBits ws

end Sys2Proof.Machine
end

