-- ==== Sys2Proof/Machine/Operands.lean ====
section
/-! DEFINITION. What an operand stands for: the selector map of `RDREG` (spec/10_state.md R33), the
seed of `SEED` (spec/40_lfsr.md R104) and the batch length of a count (R29, R73). -/
namespace Sys2Proof.Machine

/-- The `RDREG` selector map of R33; `none` at the reserved selectors 11 .. 255. -/
def Regs.view (r : Regs) (sel : Sel) : Option Half :=
  match sel.toNat with
  | 0 => some r.lfsr
  | 1 => some r.status
  | 2 => some (r.rawcnt.extractLsb' 0 16)
  | 3 => some (r.rawcnt.extractLsb' 16 16)
  | 4 => some (r.balcnt.extractLsb' 0 16)
  | 5 => some (r.balcnt.extractLsb' 16 16)
  | 6 => some r.req
  | 7 => some r.coll
  | 8 => some (r.bpos.extractLsb' 0 16)
  | 9 => some ((r.bpos.extractLsb' 16 2).setWidth 16)
  | 10 => some r.batches
  | _ => none

/-- The value a sub-seed loads: 0 is forced to 1 (R104). -/
def seedValue (s : Half) : Half := if s = 0 then 0x0001 else s

/-- `BLEN` of R29: `3 · REQ` formed in 18 bits without overflow (R73). -/
def batchLength (req : Half) : Pos := 3 * req.setWidth 18

end Sys2Proof.Machine
end

