-- ==== Sys2Proof/Machine/Ops.lean ====
section
/-! DEFINITION. The shared operations: the datapath functions (spec/40_lfsr.md R100,
spec/41_extractor.md R120, spec/42_combine.md R140), completing a command, and reporting an error
(spec/00_scope.md R7, spec/60_exceptions.md R221). -/
namespace Sys2Proof.Machine

/-- The feedback bit: the XOR of the taps 15, 13, 12 and 10 (R21, R100). -/
def lfsrFeedback (s : Half) : Bit :=
  s.getLsbD 15 ^^ s.getLsbD 13 ^^ s.getLsbD 12 ^^ s.getLsbD 10

/-- `lfsr_next` of R100: the state shifted right with the feedback bit on top, and the old bit 0. -/
def lfsrNext (s : Half) : Half × Bit :=
  (BitVec.ofBool (lfsrFeedback s) ++ s.extractLsb' 1 15, s.getLsbD 0)

/-- `combine` of R140: one LFSR step, its output bit XORed with the chaotic bit. -/
def combine (s : Half) (c : Bit) : Half × Bit := ((lfsrNext s).1, (lfsrNext s).2 ^^ c)

/-- `vn_feed` of R120: the new `PV`, the new `PB`, and the output bit if there is one. -/
def vnFeed (pv pb b : Bit) : Bit × Bit × Option Bit :=
  match pv, pb, b with
  | false, _, b => (true, b, none)
  | true, false, true => (false, false, some false)
  | true, true, false => (false, false, some true)
  | true, _, _ => (false, false, none)

/-- Clearing the extractor's pending bit, `PB` with `PV` (R24, D22). -/
def Regs.clearPair (r : Regs) : Regs := { r with pv := false, pb := false }

/-- The state after a command: its register writes, all together, and its response appended (R38,
R54). -/
def State.respond (s : State) (r : Regs) (x : Response) : State :=
  { s with regs := r, rsp := s.rsp ++ [x.word r.busy] }

/-- A command completes: every write at once and exactly one response, whose BUSY field is `BUSY` after
the command (R7, R38). -/
def complete (s : State) (r : Regs) (x : Response) : Result := .next (s.respond r x)

/-- `raise Error(code)` of R7: the one way a command is turned away. It sets the sticky bit of the code
and writes no other register; the response carries the code and nothing else (R221). There is no
trap to take and none to return from (R225, R226). -/
def raiseError (e : Status) (s : State) : Result := complete s (s.regs.setErr e) { st := e }

/-- `if BUSY = 1: raise Error(BUSY)`, then the rest of the command (R220, D18). -/
def unlessBusy (s : State) (k : Result) : Result := if s.regs.busy then raiseError .busy s else k

/-- `if SEEDED = 0: raise Error(NOSEED)`, then the rest of the command (R220, D19). -/
def whenSeeded (s : State) (k : Result) : Result := if s.regs.seeded then k else raiseError .noseed s

/-- `if BUSY = 0: raise Error(IDLE)`, then the rest of the command (R220). -/
def whenBusy (s : State) (k : Result) : Result := if s.regs.busy then k else raiseError .idle s

end Sys2Proof.Machine
end

