-- ==== Sys2Proof/Machine/Combine.lean ====
section
/-! DEFINITION. `RAW` (spec/42_combine.md R141). -/
namespace Sys2Proof.Machine

/-- The part of a register write that `RAW` and `BSTEP` share: one LFSR step, one raw bit counted
modulo 2^32 (R25). -/
def Regs.countRaw (r : Regs) : Regs :=
  { r with lfsr := (lfsrNext r.lfsr).1, rawcnt := r.rawcnt + 1 }

/-- `RAW c` (R141). It does not feed the extractor. -/
def execRaw (c : Bit) (s : State) : Result :=
  unlessBusy s (whenSeeded s
    (complete s s.regs.countRaw { ov := true, ob := (combine s.regs.lfsr c).2 }))

end Sys2Proof.Machine
end

