-- ==== Sys2Proof/Machine/Balanced.lean ====
section
/-! DEFINITION. The balanced-bit sequencer: `BREQ`, `BSTEP` and `BABORT` (spec/43_balanced.md R161,
R162, R163). -/
namespace Sys2Proof.Machine

/-- The registers `BREQ n` leaves for n ≥ 1 (R161). -/
def Regs.startRequest (n : Half) (r : Regs) : Regs :=
  { r with
    req := n, coll := 0, bpos := 0, batches := 0, pv := false, pb := false, busy := true }

/-- `BREQ n` (R161). `BREQ 0` changes no register and is done at once. -/
def execBreq (n : Half) (s : State) : Result :=
  unlessBusy s (whenSeeded s
    (if n = 0 then complete s s.regs { done := true }
     else complete s (s.regs.startRequest n) {}))

/-- What the extractor makes of the next raw bit of a request (R162): the new `PV`, the new `PB`, and
the survivor if there is one. -/
def Regs.feedRaw (r : Regs) (c : Bit) : Bit × Bit × Option Bit :=
  vnFeed r.pv r.pb (combine r.lfsr c).2

/-- The survivor that is delivered: none once `COLL = REQ`, the surplus is discarded (R28, R162). -/
def Regs.delivered (r : Regs) (c : Bit) : Option Bit :=
  if r.coll < r.req then (r.feedRaw c).2.2 else none

/-- The writes every successful `BSTEP` makes: the LFSR, `RAWCNT` and `COLL` (R162). -/
def Regs.takeRaw (r : Regs) (c : Bit) : Regs :=
  { r.countRaw with coll := r.coll + Bit.toHalf (r.delivered c).isSome }

/-- The writes at the end of a batch, before the stop tests (R162): `BPOS` returns to 0, the pending
bit of an odd batch is discarded, and the batch is counted modulo 2^16. -/
def Regs.closeBatch (r : Regs) : Regs :=
  { r.clearPair with bpos := 0, batches := r.batches + 1 }

/-- The request ends with all its bits: `BALCNT` grows by `REQ` (R26, R162). -/
def Regs.finishRequest (r : Regs) : Regs :=
  { r with busy := false, balcnt := r.balcnt + r.req.setWidth 32 }

/-- The bounded-retry safeguard (R162): it is armed when `MAX_BATCHES ≠ 0` and acts when the batches
completed reach it. -/
def retryExhausted (cfg : Config) (batches : Half) : Bool :=
  cfg.maxBatches != 0 && batches == cfg.maxBatches

/-- The end of a batch (R162), given the registers after `closeBatch` and the bit delivered. The
completion test comes before the exhaustion test (corner case (e)). EXHAUSTED keeps every effect
(R224). -/
def endBatch (s : State) (r : Regs) (x : Response) : Result :=
  if r.coll = r.req then complete s r.finishRequest { x with done := true }
  else if retryExhausted s.cfg r.batches then
    complete s ({ r with busy := false }.setErr .exhausted) { x with st := .exhausted }
  else complete s r x

/-- `BSTEP c` (R162). -/
def execBstep (c : Bit) (s : State) : Result :=
  whenBusy s
    (if s.regs.bpos + 1 = batchLength s.regs.req then
      endBatch s (s.regs.takeRaw c).closeBatch (Response.emit (s.regs.delivered c))
    else
      complete s
        { s.regs.takeRaw c with
          pv := (s.regs.feedRaw c).1, pb := (s.regs.feedRaw c).2.1, bpos := s.regs.bpos + 1 }
        (Response.emit (s.regs.delivered c)))

/-- The registers `BABORT` leaves when a request is active: `REQ`, `COLL` and `BATCHES` are kept
(R163). -/
def Regs.cancelRequest (r : Regs) : Regs := { r.clearPair with busy := false, bpos := 0 }

/-- `BABORT` (R163). With no request active it reports OK and does nothing. -/
def execBabort (s : State) : Result :=
  if s.regs.busy then complete s s.regs.cancelRequest {} else complete s s.regs {}

end Sys2Proof.Machine
end

