-- ==== Sys2Proof/Machine/Control.lean ====
section
/-! DEFINITION. `NOP`, `RDREG` (spec/44_control.md R190, R191) and a word that is no command
(spec/30_encoding.md R74, R75). -/
namespace Sys2Proof.Machine

/-- `NOP` (R190). -/
def execNop (s : State) : Result := complete s s.regs {}

/-- `RDREG sel` (R191). A reserved selector reports ILLEGAL. -/
def execRdreg (sel : Sel) (s : State) : Result :=
  match s.regs.view sel with
  | some v => complete s s.regs { data := v }
  | none => raiseError .illegal s

/-- A word the decoder refuses (R74, R75): ILLEGAL, before any other error (R223). -/
def execIllegal (s : State) : Result := raiseError .illegal s

end Sys2Proof.Machine
end

