-- ==== Sys2Proof/Machine/Extractor.lean ====
section
/-! DEFINITION. `EXT` and `EFLUSH` (spec/41_extractor.md R122, R123). -/
namespace Sys2Proof.Machine

/-- `EXT b` (R122). It needs no seed and changes no counter. -/
def execExt (b : Bit) (s : State) : Result :=
  unlessBusy s
    (complete s
      { s.regs with
        pv := (vnFeed s.regs.pv s.regs.pb b).1, pb := (vnFeed s.regs.pv s.regs.pb b).2.1 }
      (Response.emit (vnFeed s.regs.pv s.regs.pb b).2.2))

/-- `EFLUSH` (R123): a pending unpaired bit is discarded. -/
def execEflush (s : State) : Result :=
  unlessBusy s (complete s s.regs.clearPair {})

end Sys2Proof.Machine
end

