-- ==== Sys2Proof/Machine/Lfsr.lean ====
section
/-! DEFINITION. `SEED` and `LSTEP` (spec/40_lfsr.md R104, R105). -/
namespace Sys2Proof.Machine

/-- The registers a successful `SEED` leaves (R104): a fresh generator. `BUSY` is 0 there already, and
`ERRS` survives. -/
def Regs.seedWith (imm : Half) (r : Regs) : Regs :=
  { r with
    lfsr := seedValue imm, seeded := true, pv := false, pb := false, rawcnt := 0, balcnt := 0,
    req := 0, coll := 0, bpos := 0, batches := 0 }

/-- `SEED imm` (R104). -/
def execSeed (imm : Half) (s : State) : Result :=
  unlessBusy s (complete s (s.regs.seedWith imm) {})

/-- `LSTEP` (R105). `RAWCNT` does not count an LFSR-only bit (R25). -/
def execLstep (s : State) : Result :=
  unlessBusy s (whenSeeded s
    (complete s { s.regs with lfsr := (lfsrNext s.regs.lfsr).1 }
      { ov := true, ob := (lfsrNext s.regs.lfsr).2 }))

end Sys2Proof.Machine
end

