-- ==== Sys2Proof/Machine/Dispatch.lean ====
section
/-! DEFINITION. One arm per command: its meaning (the rule column of spec/30_encoding.md R72). -/
namespace Sys2Proof.Machine

def exec (i : Instr) (s : State) : Host.Outcome State Fault Refusal :=
  match i with
  | .nop => Sys2Proof.Machine.execNop s
  | .seed imm => Sys2Proof.Machine.execSeed imm s
  | .lstep => Sys2Proof.Machine.execLstep s
  | .raw b => Sys2Proof.Machine.execRaw b s
  | .ext b => Sys2Proof.Machine.execExt b s
  | .eflush => Sys2Proof.Machine.execEflush s
  | .breq imm => Sys2Proof.Machine.execBreq imm s
  | .bstep b => Sys2Proof.Machine.execBstep b s
  | .babort => Sys2Proof.Machine.execBabort s
  | .rdreg sel => Sys2Proof.Machine.execRdreg sel s

end Sys2Proof.Machine
end

