-- ==== Sys2Proof/Machine/Port.lean ====
section
/-! DEFINITION. What the block does with an input at its ports (spec/10_state.md R37, R38,
spec/70_reset_and_hazards.md R250), and how the host presents one. -/
namespace Sys2Proof.Machine

/-- A command word: the command it decodes to, or ILLEGAL (R75, R76). -/
def takeCommand (w : Word) (s : State) : Result :=
  match decode w with
  | .ok i => exec i s
  | .error _ => execIllegal s

/-- A reset (R250): every register at its reset value, no response. `MAX_BATCHES` is no register and
keeps its value (R251). What the host presents after the reset is still to come. -/
def takeReset (s : State) : Result := .next { s with regs := Regs.reset }

/-- One input, taken whole (R54). -/
def takeInput (x : HostInput) (s : State) : Result :=
  match x with
  | .cmd w => takeCommand w s
  | .rst => takeReset s

/-- The host presents an input after those it has presented before (R56). -/
def State.present (s : State) (x : HostInput) : State := { s with pending := s.pending ++ [x] }

/-- A command word presented to be taken next, before anything else that is pending. -/
def State.presentNext (s : State) (w : Word) : State := { s with pending := .cmd w :: s.pending }

end Sys2Proof.Machine
end

