-- ==== Sys2Proof/Machine/Step.lean ====
section
/-! DEFINITION. One step of the machine. -/
namespace Sys2Proof.Machine

/-- The block takes the oldest input the host has presented (R38, R56). With none, it holds all its
state and does nothing (R233, R258). -/
def step (s : State) : Host.Outcome State Fault Refusal :=
  match s.pending with
  | [] => .next s
  | x :: rest => takeInput x { s with pending := rest }

/-- `s` with that command word presented at the port `cmd`, so that the next step takes it. -/
def State.withFetchWord (s : State) (nbits w : Nat) : State := s.presentNext (tableWord nbits w)

end Sys2Proof.Machine
end

