-- ==== Sys2Proof/Machine/Assembler.lean ====
section
/-! DEFINITION. The assembler of spec/30_encoding.md R77 and R78: one statement a line, operands checked
against their range and never truncated, pseudo-instructions expanded. Host text: the block sees the
words. -/
namespace Sys2Proof.Machine

/-- A statement, with its numbers as written. -/
inductive AsmStmt where
  | nop
  | seed (imm : Nat)
  | lstep
  | raw (b : Nat)
  | ext (b : Nat)
  | eflush
  | breq (imm : Nat)
  | bstep (b : Nat)
  | babort
  | rdreg (sel : Nat)
  /-- `.word`: an arbitrary word. -/
  | word (w : Nat)
  | rdlfsr
  | rdstat
  | rdrawcnt
  | rdbalcnt
  | extseq (bs : List Nat)
  | rawn (cs : List Nat)
  /-- `BALANCED n, c0 c1 …`: `BREQ n` and a `BSTEP` for each bit written. How many are needed depends on
  the data (R78); the host sends no more of them once a response has DONE or `ST ≠ OK`. -/
  | balanced (n : Nat) (cs : List Nat)
  deriving DecidableEq, Repr

/-- A number that fits `w` bits; out of range is refused (R77). -/
def operand (w n : Nat) : Option (BitVec w) := if n < 2 ^ w then some (BitVec.ofNat w n) else none

/-- A bit operand, 0 or 1. -/
def bitOperand (n : Nat) : Option Bit := if n < 2 then some (decide (n = 1)) else none

/-- The bit operands of a sequence, all of them in range. -/
def bitOperands : List Nat → Option (List Bit)
  | [] => some []
  | n :: ns =>
    match bitOperand n, bitOperands ns with
    | some b, some bs => some (b :: bs)
    | _, _ => none

/-- The commands of a statement other than `.word` (R77, R78); `none` where an operand is out of range. -/
def AsmStmt.commands : AsmStmt → Option (List Instr)
  | .nop => some [.nop]
  | .seed imm => (operand 16 imm).map fun x => [.seed x]
  | .lstep => some [.lstep]
  | .raw b => (bitOperand b).map fun x => [.raw x]
  | .ext b => (bitOperand b).map fun x => [.ext x]
  | .eflush => some [.eflush]
  | .breq imm => (operand 16 imm).map fun x => [.breq x]
  | .bstep b => (bitOperand b).map fun x => [.bstep x]
  | .babort => some [.babort]
  | .rdreg sel => (operand 8 sel).map fun x => [.rdreg x]
  | .word _ => none
  | .rdlfsr => some [.rdreg 0]
  | .rdstat => some [.rdreg 1]
  | .rdrawcnt => some [.rdreg 2, .rdreg 3]
  | .rdbalcnt => some [.rdreg 4, .rdreg 5]
  | .extseq bs => (bitOperands bs).map fun xs => .eflush :: xs.map .ext ++ [.eflush]
  | .rawn cs => (bitOperands cs).map fun xs => xs.map .raw
  | .balanced n cs =>
    match operand 16 n, bitOperands cs with
    | some x, some xs => some (.breq x :: xs.map .bstep)
    | _, _ => none

/-- The words of a statement. -/
def AsmStmt.assemble : AsmStmt → Option (List Word)
  | .word w => (operand 32 w).map fun x => [x]
  | st => st.commands.map (List.map encode)

/-! The text of a line (R77): a mnemonic, its operands, a comment from `;` on. -/

/-- The register names of spec/10_state.md R33, as selectors. -/
def selectorNames : List (List Char × Nat) :=
  [ (['L','F','S','R'], 0), (['S','T','A','T','U','S'], 1),
    (['R','A','W','C','N','T','_','L','O'], 2), (['R','A','W','C','N','T','_','H','I'], 3),
    (['B','A','L','C','N','T','_','L','O'], 4), (['B','A','L','C','N','T','_','H','I'], 5),
    (['R','E','Q'], 6), (['C','O','L','L'], 7), (['B','P','O','S','_','L','O'], 8),
    (['B','P','O','S','_','H','I'], 9), (['B','A','T','C','H','E','S'], 10) ]

/-- The value of a digit in base 10 or 16. -/
def digitValue (base : Nat) (c : Char) : Option Nat :=
  let n := c.toNat
  let v := if 48 ≤ n ∧ n ≤ 57 then n - 48
    else if 97 ≤ n ∧ n ≤ 102 then n - 87
    else if 65 ≤ n ∧ n ≤ 70 then n - 55
    else 16
  if v < base then some v else none

/-- Digits read on from the value `acc`. -/
def digitsValue (base : Nat) : Nat → List Char → Option Nat
  | acc, [] => some acc
  | acc, c :: cs =>
    match digitValue base c with
    | some v => digitsValue base (base * acc + v) cs
    | none => none

/-- A number: decimal, or hexadecimal with the leading `0x` (R77). -/
def parseNumber : List Char → Option Nat
  | [] => none
  | ['0', 'x'] => none
  | '0' :: 'x' :: cs => digitsValue 16 0 cs
  | cs => digitsValue 10 0 cs

/-- All tokens as numbers. -/
def parseNumbers : List (List Char) → Option (List Nat)
  | [] => some []
  | t :: ts =>
    match parseNumber t, parseNumbers ts with
    | some n, some ns => some (n :: ns)
    | _, _ => none

/-- A selector operand: a number or a register name (R77). -/
def parseSelector (t : List Char) : Option Nat :=
  match selectorNames.find? (fun p => p.1 == t) with
  | some p => some p.2
  | none => parseNumber t

/-- The tokens of a line without its comment, split at spaces and tabs; `cur` is the token being read. -/
def tokensFrom : List Char → List Char → List (List Char)
  | cur, [] => if cur = [] then [] else [cur]
  | cur, c :: cs =>
    if c = ';' then (if cur = [] then [] else [cur])
    else if c = ' ' ∨ c = '\t' then
      (if cur = [] then tokensFrom [] cs else cur :: tokensFrom [] cs)
    else tokensFrom (cur ++ [c]) cs

/-- A token that ends in a comma, without it (the `n,` of `BALANCED`). -/
def dropComma : List Char → Option (List Char)
  | [] => none
  | [c] => if c = ',' then some [] else none
  | c :: cs => (dropComma cs).map (c :: ·)

/-- The statement of a line's tokens. -/
def parseTokens : List (List Char) → Option AsmStmt
  | [['N','O','P']] => some .nop
  | [['S','E','E','D'], n] => (parseNumber n).map .seed
  | [['L','S','T','E','P']] => some .lstep
  | [['R','A','W'], n] => (parseNumber n).map .raw
  | [['E','X','T'], n] => (parseNumber n).map .ext
  | [['E','F','L','U','S','H']] => some .eflush
  | [['B','R','E','Q'], n] => (parseNumber n).map .breq
  | [['B','S','T','E','P'], n] => (parseNumber n).map .bstep
  | [['B','A','B','O','R','T']] => some .babort
  | [['R','D','R','E','G'], n] => (parseSelector n).map .rdreg
  | [['.','w','o','r','d'], n] => (parseNumber n).map .word
  | [['R','D','L','F','S','R']] => some .rdlfsr
  | [['R','D','S','T','A','T']] => some .rdstat
  | [['R','D','R','A','W','C','N','T']] => some .rdrawcnt
  | [['R','D','B','A','L','C','N','T']] => some .rdbalcnt
  | ['E','X','T','S','E','Q'] :: ns => (parseNumbers ns).map .extseq
  | ['R','A','W','N'] :: ns => (parseNumbers ns).map .rawn
  | ['B','A','L','A','N','C','E','D'] :: n :: ns =>
    match (dropComma n).bind parseNumber, parseNumbers ns with
    | some x, some xs => some (.balanced x xs)
    | _, _ => none
  | _ => none

/-- The words of a line of text; a line with nothing but a comment has none (R77). -/
def assembleLine (line : List Char) : Option (List Word) :=
  match tokensFrom [] line with
  | [] => some []
  | ts => (parseTokens ts).bind AsmStmt.assemble

end Sys2Proof.Machine
end

