-- ==== Sys2Proof/Machine/Reference.lean ====
section
/-! DEFINITION. Sequences: the document's functions on whole bit sequences (spec/40_lfsr.md R101,
spec/41_extractor.md R124, spec/42_combine.md R143, spec/43_balanced.md R160), and sequences of commands.
The machine never calls these; the sequencer is compared with them. -/
namespace Sys2Proof.Machine

/-- The LFSR after `n` steps from `s` (R100). -/
def lfsrState (s : Half) : Nat → Half
  | 0 => s
  | n + 1 => (lfsrNext (lfsrState s n)).1

/-- `o[t]` of R101: the output bit of the (t+1)-th step from `s`. -/
def lfsrOut (s : Half) (t : Nat) : Bit := (lfsrNext (lfsrState s t)).2

/-- `generate_raw_bits` (R143): the raw bits from LFSR state `s` and chaotic bits `cs`. -/
def rawBits : Half → List Bit → List Bit
  | _, [] => []
  | s, c :: cs => (combine s c).2 :: rawBits (combine s c).1 cs

/-- The document's BiasExtractor (R124): pairs (0,1), (2,3), …; an unequal pair gives its first bit, and a
trailing unpaired bit is discarded. -/
def extractPairs : List Bit → List Bit
  | a :: b :: rest => if a = b then extractPairs rest else a :: extractPairs rest
  | _ => []

/-- The survivors of one batch of raw bits, paired afresh (R160). -/
def batchSurvivors (s : Half) (cs : List Bit) : List Bit := extractPairs (rawBits s cs)

/-- What `generate_balanced_bits` returns: the bits, the number of batches it took, and the LFSR it leaves. -/
structure Balanced where
  bits    : List Bit
  batches : Nat
  lfsr    : Half
  deriving DecidableEq, Repr

/-- `generate_balanced_bits(c)` of R160, with at most `fuel` batches: the loop test before every batch,
3·c raw bits a batch, truncation to exactly c. `none` when the fuel is used up first. -/
def generateBalanced (c : Nat) : Nat → Nat → List Bit → Half → List Bit → Option Balanced
  | 0, done, buffer, s, _ =>
    if buffer.length < c then none else some ⟨buffer.take c, done, s⟩
  | fuel + 1, done, buffer, s, cs =>
    if buffer.length < c then
      generateBalanced c fuel (done + 1) (buffer ++ batchSurvivors s (cs.take (kOver * c)))
        (lfsrState s (kOver * c)) (cs.drop (kOver * c))
    else some ⟨buffer.take c, done, s⟩

/-- Commands executed one after the other (R56). -/
def execAll : List Instr → State → Result
  | [], s => .next s
  | i :: is, s =>
    match exec i s with
    | .next t => execAll is t
    | .fault f => .fault f
    | .refused r => .refused r

/-- The responses returned between two states of one run. -/
def newResponses (s t : State) : List Word := t.rsp.drop s.rsp.length

/-- The output bits delivered between two states of one run (R53). -/
def newOutputs (s t : State) : List Bit := outputBits (newResponses s t)

/-- One batch of the host's own loop (R164): `RAW` for each chaotic bit, then one BiasExtractor run over
the returned raw bits (`EXTSEQ` of R78). -/
def loopBatch (cs : List Bit) (s : State) : Option (List Bit × State) :=
  match execAll (cs.map .raw) s with
  | .next t =>
    match execAll (.eflush :: (newOutputs s t).map .ext ++ [.eflush]) t with
    | .next u => some (newOutputs t u, u)
    | _ => none
  | _ => none

/-- The host's own loop of R164, with at most `fuel` batches: batches while fewer than c survivors have
been collected, keeping the first c. -/
def loopBalanced (c : Nat) : Nat → Nat → List Bit → State → List Bit → Option Balanced
  | 0, done, buffer, s, _ =>
    if buffer.length < c then none else some ⟨buffer.take c, done, s.regs.lfsr⟩
  | fuel + 1, done, buffer, s, cs =>
    if buffer.length < c then
      match loopBatch (cs.take (kOver * c)) s with
      | some (bits, u) => loopBalanced c fuel (done + 1) (buffer ++ bits) u (cs.drop (kOver * c))
      | none => none
    else some ⟨buffer.take c, done, s.regs.lfsr⟩

end Sys2Proof.Machine
end

