-- ==== Sys2Proof/Machine/Procedures.lean ====
section
/-! DEFINITION. The host procedures of spec/44_control.md R192 to R197: what a host does with the block's
commands to reproduce the document's API. They are rules on the host, not on the block. The chaotic bits
are an input (D40), since the ChaoticMap is outside the block (spec/00_scope.md R4). -/
namespace Sys2Proof.Machine

/-! The sub-seed (R193). -/

/-- The value of a bit sequence, position 0 the least significant bit (R193, R196). -/
def bitsValue : List Bit → Nat
  | [] => 0
  | b :: bs => b.toNat + 2 * bitsValue bs

/-- One step of the trajectory: halve if even, triple-plus-one if odd. -/
def trajectoryStep (n : Nat) : Nat := if n % 2 = 0 then n / 2 else 3 * n + 1

/-- The parities after the first, while `n ≠ 1` and the cap is not used up (R193, D36). -/
def trajectoryTail : Nat → Nat → List Bit
  | 0, _ => []
  | k + 1, n =>
    if n = 1 then []
    else decide (trajectoryStep n % 2 = 1) :: trajectoryTail k (trajectoryStep n)

/-- `trajectory_parity` of R193. -/
def trajectoryParity (seed : Nat) : List Bit :=
  decide (seed % 2 = 1) :: trajectoryTail trajectoryCap seed

/-- `sub_seed` of R193. Padding on the right with 0 adds nothing to the value. -/
def subSeed (seed : Nat) : Half := seedValue (BitVec.ofNat 16 (bitsValue ((trajectoryParity seed).take 16)))

/-- What constructing a generator gives (R192): the command for the block and the host's ChaoticMap start. -/
structure NewGenerator where
  command    : Instr
  chaosStart : Rat
  deriving DecidableEq, Repr

/-- R192: `none` is `InvalidSeedError`, and then no command is issued. -/
def constructGenerator (seed : Int) : Option NewGenerator :=
  if seed ≤ 0 then none
  else some { command := .seed (subSeed seed.toNat), chaosStart := ((seed.toNat % 997 + 1 : Nat) : Rat) / 999 }

/-- The last response returned; the all-zero word when there is none. -/
def State.lastResponse (s : State) : Word := s.rsp.getLastD 0

/-- Constructing a generator on a block (R192): `SEED` with the sub-seed. `none` where no command may be issued or
the block does not take it (R253: no request may be active). -/
def startGenerator (seed : Int) (s : State) : Option (NewGenerator × State) :=
  match constructGenerator seed with
  | none => none
  | some g =>
    match exec g.command s with
    | .next t => if rspSt t.lastResponse = Status.ok.code then some (g, t) else none
    | _ => none

/-! A balanced-bit request driven by the host (R194, R195). -/

/-- How a request ends for the host. -/
inductive RequestEnd where
  /-- `DONE`: the OB of the responses with OV = 1, in order. -/
  | result (bits : List Bit)
  /-- `ST = EXHAUSTED`: the bounded-retry failure (`GenerationExhaustedError`). The delivered bits are
  discarded (R195). -/
  | exhausted
  /-- Another `ST ≠ OK`: the command was turned away and no request of this call is active (R221). -/
  | failed (st : BitVec 3)
  /-- The host cancelled the request with `BABORT`. The delivered bits are discarded (R195). -/
  | cancelled
  /-- The chaotic bits given ran out, and the request is still active: the host goes on with `driveRequest`
  or cancels with `cancelBalancedBits`. -/
  | moreChaos
  /-- The host refuses the count: it has no command sequence (R194). -/
  | refusedCount
  deriving DecidableEq, Repr

/-- How many chaotic bits a command used up, read from its response (R255, R257): a `RAW` or `BSTEP` that
reports OK or EXHAUSTED one, every other command none. -/
def chaosConsumed (i : Instr) (w : Word) : Nat :=
  match i with
  | .raw _ | .bstep _ => if rspSt w = Status.ok.code ∨ rspSt w = Status.exhausted.code then 1 else 0
  | _ => 0

/-- `BSTEP` with the next chaotic bit until `DONE` or `ST ≠ OK` (R194): how it ended, the state, and the
chaotic bits left. -/
def driveRequest : List Bit → List Bit → State → RequestEnd × State × List Bit
  | [], _, s => (.moreChaos, s, [])
  | c :: cs, got, s =>
    match exec (.bstep c) s with
    | .next t =>
      let w := t.lastResponse
      if rspDone w then (.result (got ++ newOutputs s t), t, cs)
      else if rspSt w = Status.ok.code then driveRequest cs (got ++ newOutputs s t) t
      else if rspSt w = Status.exhausted.code then (.exhausted, t, cs)
      else (.failed (rspSt w), t, c :: cs)
    | _ => (.moreChaos, s, c :: cs)

/-- `generateBalancedBits(generator, count)` (R194). -/
def generateBalancedBits (count : Nat) (cs : List Bit) (s : State) : RequestEnd × State × List Bit :=
  if 65535 < count then (.refusedCount, s, cs)
  else
    match exec (.breq (BitVec.ofNat 16 count)) s with
    | .next t =>
      if rspDone t.lastResponse then (.result [], t, cs)
      else if rspSt t.lastResponse = Status.ok.code then driveRequest cs [] t
      else (.failed (rspSt t.lastResponse), t, cs)
    | _ => (.refusedCount, s, cs)

/-- The host cancels with `BABORT` (R195): every bit the request delivered is discarded. -/
def cancelBalancedBits (s : State) : RequestEnd × State :=
  match exec .babort s with
  | .next t => (.cancelled, t)
  | _ => (.moreChaos, s)

/-- A request that the host cancels if the chaotic bits it is willing to spend do not complete it (R194, R195). -/
def generateOrCancel (count : Nat) (cs : List Bit) (s : State) : RequestEnd × State × List Bit :=
  match generateBalancedBits count cs s with
  | (.moreChaos, t, left) => ((cancelBalancedBits t).1, (cancelBalancedBits t).2, left)
  | r => r

/-- The two ends after which the LFSR has advanced for bits that are no result, so that the host issues `SEED`
before it relies on the document's determinism again (R195). -/
def RequestEnd.needsSeed : RequestEnd → Bool
  | .exhausted | .cancelled => true
  | .result _ | .failed _ | .moreChaos | .refusedCount => false

/-- After a request, the generator is constructed again from its seed if the end calls for it (R195). -/
def restoreGenerator (seed : Int) (e : RequestEnd) (s : State) : Option State :=
  if e.needsSeed then (startGenerator seed s).map Prod.snd else some s

/-! Packing (R53, R196) and the cipher's use of the keystream (R197). -/

/-- Bytes of a bit sequence, bit 0 of a byte first (R53, R196). DESIGN CHOICE (log entry 15): fewer than eight
bits left at the end are not packed. -/
def packBytes : List Bit → List Byte
  | b0 :: b1 :: b2 :: b3 :: b4 :: b5 :: b6 :: b7 :: rest =>
    BitVec.ofNat 8 (bitsValue [b0, b1, b2, b3, b4, b5, b6, b7]) :: packBytes rest
  | _ => []

/-- Nibbles of a bit sequence, least significant bit first within the nibble (R53, R197). DESIGN CHOICE (log
entry 15): fewer than four bits left at the end are not packed. -/
def packNibbles : List Bit → List (BitVec 4)
  | b0 :: b1 :: b2 :: b3 :: rest => BitVec.ofNat 4 (bitsValue [b0, b1, b2, b3]) :: packNibbles rest
  | _ => []

/-- The bits of a value of width `w`, least significant first. -/
def bitsLsbFirst {w : Nat} (v : BitVec w) : List Bit := (List.range w).map v.getLsbD

/-- "LSB-first per byte" message-to-bit conversion (R197). -/
def bitsOfBytes (bs : List Byte) : List Bit := bs.flatMap bitsLsbFirst

/-- The bits of a nibble sequence, undoing `packNibbles`. -/
def bitsOfNibbles (ns : List (BitVec 4)) : List Bit := ns.flatMap bitsLsbFirst

/-- A nibble as a lowercase hexadecimal digit (R196). -/
def hexDigit (n : BitVec 4) : Char := Nat.digitChar n.toNat

/-- `generateBytes(generator, N)` (R196): one request of 8·N bits, so N is at most 8191. -/
def generateBytes (n : Nat) (cs : List Bit) (s : State) : Option (List Byte) :=
  match (generateBalancedBits (8 * n) cs s).1 with
  | .result bits => some (packBytes bits)
  | _ => none

/-- The hexadecimal digits of bytes. The document does not say which nibble of a byte is written first
(R196), so the host's choice is an argument. -/
def hexOfBytes (highFirst : Bool) (bs : List Byte) : List Char :=
  bs.flatMap fun b =>
    if highFirst then [hexDigit (b.extractLsb' 4 4), hexDigit (b.extractLsb' 0 4)]
    else [hexDigit (b.extractLsb' 0 4), hexDigit (b.extractLsb' 4 4)]

/-- `generateKeyHex(generator, byteLength)` (R196). -/
def generateKeyHex (highFirst : Bool) (n : Nat) (cs : List Bit) (s : State) : Option (List Char) :=
  (generateBytes n cs s).map (hexOfBytes highFirst)

/-- The cipher XOR of a bit sequence and the keystream (R197). -/
def xorBits (xs ks : List Bit) : List Bit := List.zipWith xor xs ks

/-- The keystream for L bits from a fresh generator (R192, R197), given the state the generator is
constructed in. -/
def keystream (seed : Int) (len : Nat) (cs : List Bit) (s : State) : Option (List Bit) :=
  match startGenerator seed s with
  | none => none
  | some (_, t) =>
    match (generateBalancedBits len cs t).1 with
    | .result bits => some bits
    | _ => none

/-- `encrypt(message, S)` (R197), as nibbles of the ciphertext. -/
def encryptNibbles (seed : Int) (message : List Byte) (cs : List Bit) (s : State) :
    Option (List (BitVec 4)) :=
  (keystream seed (8 * message.length) cs s).map fun ks =>
    packNibbles (xorBits (bitsOfBytes message) ks)

/-- `decrypt(ciphertextHex, S)` (R197), from the nibbles of the ciphertext to the message's bytes. -/
def decryptNibbles (seed : Int) (cipher : List (BitVec 4)) (cs : List Bit) (s : State) :
    Option (List Byte) :=
  (keystream seed (4 * cipher.length) cs s).map fun ks =>
    packBytes (xorBits (bitsOfNibbles cipher) ks)

end Sys2Proof.Machine
end

