-- ==== Sys2Proof/Safety.lean ====
section
/-! DEFINITION. The terms in which the statements speak of a good state and a good run. -/
namespace Sys2Proof.Machine

/-- The invariants of spec/10_state.md R34, (a) to (g). -/
structure Regs.Inv (r : Regs) : Prop where
  /-- (a) -/
  busy_seeded : r.busy = true → r.seeded = true
  /-- (b) -/
  busy_req : r.busy = true → 1 ≤ r.req.toNat
  /-- (c) -/
  busy_bpos : r.busy = true → r.bpos.toNat < 3 * r.req.toNat
  /-- (d) -/
  idle_bpos : r.busy = false → r.bpos = 0
  /-- (e) -/
  coll_le_req : r.coll.toNat ≤ r.req.toNat
  /-- (f) -/
  no_pair_no_bit : r.pv = false → r.pb = false
  /-- (g), both halves: while a request is active, `PV` is the parity of `BPOS`. -/
  busy_pairing : r.busy = true → (r.pv = true ↔ r.bpos.toNat % 2 = 1)

/-- While a request is active under a bound, fewer batches than the bound are complete: the batch that
reaches it ends the request (spec/43_balanced.md R162, R166). -/
def State.BelowRetryBound (s : State) : Prop :=
  s.regs.busy = true → s.cfg.maxBatches ≠ 0 → s.regs.batches.toNat < s.cfg.maxBatches.toNat

/-- No request is active: every command but `BSTEP` may have its effect (R220). -/
def State.Idle (s : State) : Prop := s.regs.busy = false

/-- A generator exists and no request is active (R253). -/
def State.Ready (s : State) : Prop := s.regs.busy = false ∧ s.regs.seeded = true

/-- `t` is `s` with the registers `r` and one more response `w`: nothing else of the machine differs. -/
def State.After (s : State) (r : Regs) (w : Word) : State := { s with regs := r, rsp := s.rsp ++ [w] }

/-! The terms of the rules on `BSTEP` (spec/43_balanced.md R162), read off the registers alone. -/

/-- The raw bit that `BSTEP c` makes: the LFSR's output bit xor the chaotic bit (R140). -/
def Regs.nextRaw (r : Regs) (c : Bit) : Bit := r.lfsr.getLsbD 0 ^^ c

/-- The bit that `BSTEP c` delivers: the first bit of an unequal pair, unless `COLL` has reached `REQ`. -/
def Regs.nextOut (r : Regs) (c : Bit) : Option Bit :=
  if r.pv = true ∧ r.pb ≠ r.nextRaw c ∧ r.coll.toNat < r.req.toNat then some r.pb else none

/-- `coll'` of R162. -/
def Regs.nextColl (r : Regs) (c : Bit) : Half :=
  if (r.nextOut c).isSome then r.coll + 1 else r.coll

/-- OV and OB of a response word that carries this output bit, or none (R71). -/
def outputField : Option Bit → Word
  | none => 0x0
  | some false => 0x1
  | some true => 0x3

/-- The BUSY field of a response word (R71). -/
def busyField (busy : Bit) : Word := if busy then 0x8 else 0x0

/-- The status a command reports by the table of spec/60_exceptions.md R220, in the order of R223. -/
def expectedStatus (cfg : Config) (r : Regs) (i : Instr) : Status :=
  let busyThenSeed : Status := if r.busy then .busy else if r.seeded then .ok else .noseed
  match i with
  | .nop | .babort => .ok
  | .seed _ | .ext _ | .eflush => if r.busy then .busy else .ok
  | .lstep | .raw _ | .breq _ => busyThenSeed
  | .bstep c =>
    if r.busy = false then .idle
    else if r.bpos.toNat + 1 = 3 * r.req.toNat ∧ r.nextColl c ≠ r.req ∧ cfg.maxBatches ≠ 0 ∧
        r.batches + 1 = cfg.maxBatches then .exhausted
    else .ok
  | .rdreg sel => if sel.toNat ≤ 10 then .ok else .illegal

end Sys2Proof.Machine
end

