-- ==== Sys2Proof/Certificates/Slice0/Obligations.lean ====
section
/-! DEFINITION. The statements for the provers, taken from the numbered rules of spec/. Nothing is proved
here. The block has no memory (spec/20_memory.md R50), so no frame speaks of any. -/
open Sys2Proof Sys2Proof.Machine

/-! ## Encoding -/

/-- Every command, with every operand, is read back from its word (R72, R73, R77). -/
def Obligations.DecodeOfEncodeIsTheCommand : Prop := ∀ i : Instr, decode (encode i) = .ok i

/-- Each word has one meaning: a word that decodes to a command is that command's word (R74, R76). -/
def Obligations.DecodedWordIsTheEncoding : Prop :=
  ∀ (w : Word) (i : Instr), decode w = .ok i → encode i = w

/-- R72: a word selects a mnemonic exactly when its masked bits are the row's match, with the operands of
R73, and a word that matches no row is illegal. -/
def Obligations.MaskAndMatchSelectTheCommand : Prop :=
  ∀ w : Word,
    (decode w = .ok .nop ↔ w &&& 0xFFFFFFFF = 0x00000000) ∧
    (∀ x, decode w = .ok (.seed x) ↔ w &&& 0x0000FFFF = 0x00000001 ∧ x = w.extractLsb' 16 16) ∧
    (decode w = .ok .lstep ↔ w &&& 0xFFFFFFFF = 0x00000002) ∧
    (∀ b, decode w = .ok (.raw b) ↔ w &&& 0xFFFFFFEF = 0x00000003 ∧ b = w.getLsbD 4) ∧
    (∀ b, decode w = .ok (.ext b) ↔ w &&& 0xFFFFFFEF = 0x00000004 ∧ b = w.getLsbD 4) ∧
    (decode w = .ok .eflush ↔ w &&& 0xFFFFFFFF = 0x00000005) ∧
    (∀ x, decode w = .ok (.breq x) ↔ w &&& 0x0000FFFF = 0x00000006 ∧ x = w.extractLsb' 16 16) ∧
    (∀ b, decode w = .ok (.bstep b) ↔ w &&& 0xFFFFFFEF = 0x00000007 ∧ b = w.getLsbD 4) ∧
    (decode w = .ok .babort ↔ w &&& 0xFFFFFFFF = 0x00000008) ∧
    (∀ x, decode w = .ok (.rdreg x) ↔ w &&& 0xFFFF00FF = 0x00000009 ∧ x = w.extractLsb' 8 8) ∧
    ((∃ e, decode w = .error e) ↔
      w &&& 0xFFFFFFFF ≠ 0x00000000 ∧ w &&& 0x0000FFFF ≠ 0x00000001 ∧
      w &&& 0xFFFFFFFF ≠ 0x00000002 ∧ w &&& 0xFFFFFFEF ≠ 0x00000003 ∧
      w &&& 0xFFFFFFEF ≠ 0x00000004 ∧ w &&& 0xFFFFFFFF ≠ 0x00000005 ∧
      w &&& 0x0000FFFF ≠ 0x00000006 ∧ w &&& 0xFFFFFFEF ≠ 0x00000007 ∧
      w &&& 0xFFFFFFFF ≠ 0x00000008 ∧ w &&& 0xFFFF00FF ≠ 0x00000009)

/-- R74, R75: a word is a command exactly when its opcode is used and its unused fields are 0; any other
word reports ILLEGAL and changes no register but `ERRS[0]`. -/
def Obligations.NonzeroUnusedFieldReportsIllegal : Prop :=
  ∀ (w : Word) (s : State),
    ((fieldsOf w).wellFormed = true → ∃ i, decode w = .ok i) ∧
    ((fieldsOf w).wellFormed = false →
      takeCommand w s =
        .next (s.After { s.regs with errs := s.regs.errs ||| 0b00001 }
          (0x10 ||| busyField s.regs.busy)))

/-- Words written out from R72 and R77 decode to the commands they stand for. -/
def Obligations.WordsOfTheSpecDecode : Prop :=
  decode 0x00000000 = .ok .nop ∧ decode 0xACE10001 = .ok (.seed 0xACE1) ∧
  decode 0x00000002 = .ok .lstep ∧ decode 0x00000013 = .ok (.raw true) ∧
  decode 0x00000004 = .ok (.ext false) ∧ decode 0x00000005 = .ok .eflush ∧
  decode 0x00030006 = .ok (.breq 3) ∧ decode 0x00000017 = .ok (.bstep true) ∧
  decode 0x00000008 = .ok .babort ∧ decode 0x00000A09 = .ok (.rdreg 10) ∧
  decode 0x0000FF09 = .ok (.rdreg 255) ∧ decode 0x0000000A = .error .reservedOpcode ∧
  decode 0x00000010 = .error .unusedFieldSet

/-- R52, R54: on a byte transport byte k of a word is its bits 8k+7 : 8k, the four bytes give the word
back, and any other number of bytes is no command. -/
def Obligations.WordsMoveLittleEndian : Prop :=
  (∀ w : Word, ∀ k < 4, ∀ j < 8,
    ((bytesOfWord w).getD k 0).getLsbD j = w.getLsbD (8 * k + j)) ∧
  (∀ w : Word, (bytesOfWord w).length = 4 ∧ wordOfBytes (bytesOfWord w) = some w) ∧
  (∀ bs : List Byte, bs.length ≠ 4 → decodeBytes bs = .error .partialWord)

/-- R77: the word of each statement, and a refusal, never a truncation, of an operand out of range. -/
def Obligations.AssemblerChecksOperandRanges : Prop :=
  ∀ n : Nat,
    (n ≤ 65535 → (AsmStmt.seed n).assemble = some [BitVec.ofNat 32 (n * 65536 + 1)]) ∧
    (n ≤ 65535 → (AsmStmt.breq n).assemble = some [BitVec.ofNat 32 (n * 65536 + 6)]) ∧
    (n ≤ 255 → (AsmStmt.rdreg n).assemble = some [BitVec.ofNat 32 (n * 256 + 9)]) ∧
    (n ≤ 1 → (AsmStmt.raw n).assemble = some [BitVec.ofNat 32 (n * 16 + 3)]) ∧
    (n ≤ 1 → (AsmStmt.ext n).assemble = some [BitVec.ofNat 32 (n * 16 + 4)]) ∧
    (n ≤ 1 → (AsmStmt.bstep n).assemble = some [BitVec.ofNat 32 (n * 16 + 7)]) ∧
    (65535 < n → (AsmStmt.seed n).assemble = none ∧ (AsmStmt.breq n).assemble = none) ∧
    (255 < n → (AsmStmt.rdreg n).assemble = none) ∧
    (1 < n → (AsmStmt.raw n).assemble = none ∧ (AsmStmt.ext n).assemble = none ∧
      (AsmStmt.bstep n).assemble = none) ∧
    (n < 2 ^ 32 → (AsmStmt.word n).assemble = some [BitVec.ofNat 32 n])

/-! ## Steps, inputs and reset -/

/-- A step takes the oldest input: a word that decodes to `i` is executed as `i`, and is then no longer
presented (R38, R56, R76). A word that `withFetchWord` presents is taken before all else (log entry 3). -/
def Obligations.StepRunsTheDecodedCommand : Prop :=
  ∀ (s : State) (w : Word) (rest : List HostInput) (i : Instr), decode w = .ok i →
    (s.pending = .cmd w :: rest → step s = exec i { s with pending := rest }) ∧
    step (s.withFetchWord 32 w.toNat) = exec i s

/-- R38, R56: commands presented one after the other are executed in that order, and each returns exactly
one response, in command order: the step that takes command k appends response k. -/
def Obligations.OneResponsePerCommandInOrder : Prop :=
  ∀ (ws : List Word) (s : State) (rest : List HostInput), s.pending = ws.map .cmd ++ rest →
    ∃ t, core.run ws.length s = .next t ∧ t.pending = rest ∧
      t.rsp.length = s.rsp.length + ws.length ∧ s.rsp = t.rsp.take s.rsp.length ∧
      ∀ k < ws.length, ∃ u v, core.run k s = .next u ∧ step u = .next v ∧
        u.pending = (ws.drop k).map .cmd ++ rest ∧
        u.rsp = t.rsp.take (s.rsp.length + k) ∧ v.rsp = t.rsp.take (s.rsp.length + (k + 1))

/-- With nothing presented the block holds all its state (R233; that a step is then a stutter is the model's
choice, log entry 4). -/
def Obligations.StepWithoutInputHoldsState : Prop :=
  ∀ s : State, s.pending = [] → step s = .next s

/-- R250: a reset sets every register to its reset value and produces no response. The parameter is not
changed (R251). What the model keeps at its port `cmd` then is log entry 6, not said here. -/
def Obligations.ResetInputSetsEveryRegister : Prop :=
  ∀ (s : State) (rest : List HostInput), s.pending = .rst :: rest →
    ∃ t, step s = .next t ∧
      t.regs = { lfsr := 0x0001, seeded := false, pv := false, pb := false, rawcnt := 0, balcnt := 0,
                 busy := false, req := 0, coll := 0, bpos := 0, batches := 0, errs := 0 } ∧
      t.rsp = s.rsp ∧ t.cfg = s.cfg

/-- The reset column of R20, and the default of `MAX_BATCHES` (R5). -/
def Obligations.ResetStateValues : Prop :=
  State.reset.regs.lfsr = 0x0001 ∧ State.reset.regs.seeded = false ∧ State.reset.regs.pv = false ∧
  State.reset.regs.pb = false ∧ State.reset.regs.rawcnt = 0 ∧ State.reset.regs.balcnt = 0 ∧
  State.reset.regs.busy = false ∧ State.reset.regs.req = 0 ∧ State.reset.regs.coll = 0 ∧
  State.reset.regs.bpos = 0 ∧ State.reset.regs.batches = 0 ∧ State.reset.regs.errs = 0 ∧
  State.reset.cfg.maxBatches = 0

/-- No step stops, whatever the state (R225, R221), none changes `MAX_BATCHES` (R5, R251), and each takes one
input that is presented, if there is one (the port records are the model's own, log entry 2). -/
def Obligations.EveryStepGoesOn : Prop :=
  ∀ s : State, ∃ t, step s = .next t ∧ t.cfg = s.cfg ∧ t.pending = s.pending.tail

/-- Running the machine over the words of presented commands is executing the commands (R56). -/
def Obligations.RunOverWordsExecutesTheCommands : Prop :=
  ∀ (is : List Instr) (s : State) (rest : List HostInput),
    s.pending = is.map (fun i => .cmd (encode i)) ++ rest →
    core.run is.length s = execAll is { s with pending := rest }

/-! ## The LFSR -/

/-- R100: the output is bit 0, the register shifts right by one, and the XOR of bits 15, 13, 12 and 10 enters
at bit 15, all read before the shift. -/
def Obligations.LfsrStepShiftsInTheFeedback : Prop :=
  ∀ s : Half,
    (lfsrNext s).2 = s.getLsbD 0 ∧ (∀ k < 15, (lfsrNext s).1.getLsbD k = s.getLsbD (k + 1)) ∧
    (lfsrNext s).1.getLsbD 15 =
      (((s.getLsbD 15 ^^ s.getLsbD 13) ^^ s.getLsbD 12) ^^ s.getLsbD 10)

/-- R101: the first 16 output bits are the loaded value's bits, and then the recurrence holds. -/
def Obligations.LfsrOutputsFollowTheRecurrence : Prop :=
  ∀ s : Half,
    (∀ t ≤ 15, lfsrOut s t = s.getLsbD t) ∧
    ∀ t, lfsrOut s (t + 16) =
      (((lfsrOut s (t + 15) ^^ lfsrOut s (t + 13)) ^^ lfsrOut s (t + 12)) ^^ lfsrOut s (t + 10))

/-- R102: two states have the same successor exactly when they are equal or differ in bit 0 only, so every
state with a predecessor has exactly two; the states with a predecessor are one for each 15-bit number, 32768
of them; 0 is a fixed point, and only 0 and 1 lead to it. -/
def Obligations.LfsrStepIsTwoToOne : Prop :=
  (∀ a b : Half, (lfsrNext a).1 = (lfsrNext b).1 ↔ a = b ∨ a = b ^^^ 0x0001) ∧
  (∀ a : Half, a ≠ a ^^^ 0x0001) ∧
  (∃ f : BitVec 15 → Half, Function.Injective f ∧ ∀ t, (∃ s, (lfsrNext s).1 = t) ↔ ∃ u, f u = t) ∧
  lfsrNext 0x0000 = (0x0000, false) ∧ lfsrNext 0x0001 = (0x0000, true) ∧
  ∀ s : Half, (lfsrNext s).1 = 0x0000 ↔ s = 0x0000 ∨ s = 0x0001

/-- R103 (a): a non-zero state below 0x0400 with highest set bit h is 0 after exactly h + 1 steps, stays 0,
and gives only 0 from then on. -/
def Obligations.SmallSeedRunsIntoZero : Prop :=
  ∀ (s : Half) (h : Nat), h < 10 → 2 ^ h ≤ s.toNat → s.toNat < 2 ^ (h + 1) →
    (∀ k ≤ h, lfsrState s k ≠ 0) ∧ ∀ k, h < k → lfsrState s k = 0 ∧ lfsrOut s k = false

/-- R103 (b): a state from 0x0400 on never becomes 0, is on the one cycle of 63 states after at most 10
steps, and its outputs satisfy the shorter recurrence from then on; 0x0600 needs all 10 steps. -/
def Obligations.LargeSeedEntersTheSharedCycle : Prop :=
  (∀ s : Half, 0x0400 ≤ s.toNat →
    (∀ k, lfsrState s k ≠ 0) ∧
    (∀ k, 10 ≤ k → ∃ j < 63, lfsrState s k = lfsrState 0x05F9 j) ∧
    (∀ k, 10 ≤ k → lfsrState s (k + 63) = lfsrState s k ∧ lfsrOut s (k + 63) = lfsrOut s k) ∧
    ∀ m, 10 ≤ m → lfsrOut s (m + 6) =
      (((lfsrOut s (m + 5) ^^ lfsrOut s (m + 3)) ^^ lfsrOut s (m + 2)) ^^ lfsrOut s m)) ∧
  (∀ i < 63, ∀ j < 63, lfsrState 0x05F9 i = lfsrState 0x05F9 j → i = j) ∧
  (∀ k ≤ 9, ∀ j < 63, lfsrState 0x0600 k ≠ lfsrState 0x05F9 j)

/-! ## What each command does -/

/-- R190: `NOP` changes no register and reports OK in every state. -/
def Obligations.NopOnlyResponds : Prop :=
  (∀ s : State, exec .nop s = .next (s.After s.regs (busyField s.regs.busy))) ∧
  decode 0x00000000 = .ok .nop

/-- R104: `SEED` loads the sub-seed, 0 as 1, and starts a fresh generator, keeping `ERRS`; while a request
is active it reports BUSY. -/
def Obligations.SeedStartsAFreshGenerator : Prop :=
  ∀ (imm : Half) (s : State),
    (s.regs.busy = false → exec (.seed imm) s = .next (s.After
      { lfsr := if imm = 0 then 0x0001 else imm, seeded := true, pv := false, pb := false,
        rawcnt := 0, balcnt := 0, busy := false, req := 0, coll := 0, bpos := 0, batches := 0,
        errs := s.regs.errs } 0x00000000)) ∧
    (s.regs.busy = true → exec (.seed imm) s = .next (s.After
      { s.regs with errs := s.regs.errs ||| 0b00100 } 0x00000038)) ∧
    decode (imm.setWidth 32 <<< 16 ||| 0x00000001) = .ok (.seed imm)

/-- R105: `LSTEP` steps the LFSR and returns its old bit 0, `RAWCNT` unchanged; BUSY comes before NOSEED. -/
def Obligations.LstepReturnsTheLfsrBit : Prop :=
  ∀ s : State,
    (s.regs.busy = false → s.regs.seeded = true → exec .lstep s = .next (s.After
      { s.regs with lfsr := (lfsrNext s.regs.lfsr).1 } (outputField (some (s.regs.lfsr.getLsbD 0))))) ∧
    (s.regs.busy = true → exec .lstep s = .next (s.After
      { s.regs with errs := s.regs.errs ||| 0b00100 } 0x00000038)) ∧
    (s.regs.busy = false → s.regs.seeded = false → exec .lstep s = .next (s.After
      { s.regs with errs := s.regs.errs ||| 0b00010 } 0x00000020)) ∧
    decode 0x00000002 = .ok .lstep

/-- R141: `RAW c` returns LFSR bit xor c and counts it modulo 2^32; BUSY comes before NOSEED. -/
def Obligations.RawReturnsTheCombinedBit : Prop :=
  ∀ (c : Bit) (s : State),
    (s.regs.busy = false → s.regs.seeded = true → exec (.raw c) s = .next (s.After
      { s.regs with lfsr := (lfsrNext s.regs.lfsr).1, rawcnt := s.regs.rawcnt + 1 }
      (outputField (some (s.regs.lfsr.getLsbD 0 ^^ c))))) ∧
    (s.regs.busy = true → exec (.raw c) s = .next (s.After
      { s.regs with errs := s.regs.errs ||| 0b00100 } 0x00000038)) ∧
    (s.regs.busy = false → s.regs.seeded = false → exec (.raw c) s = .next (s.After
      { s.regs with errs := s.regs.errs ||| 0b00010 } 0x00000020)) ∧
    decode (if c then 0x00000013 else 0x00000003) = .ok (.raw c)

/-- R120, R122: `EXT b` stores the first bit of a pair; the second bit ends the pair, and an unequal pair
returns its first bit. -/
def Obligations.ExtPairsBits : Prop :=
  ∀ (b : Bit) (s : State),
    (s.regs.busy = false → s.regs.pv = false → exec (.ext b) s = .next (s.After
      { s.regs with pv := true, pb := b } 0x00000000)) ∧
    (s.regs.busy = false → s.regs.pv = true → exec (.ext b) s = .next (s.After
      { s.regs with pv := false, pb := false }
      (outputField (if s.regs.pb = b then none else some s.regs.pb)))) ∧
    (s.regs.busy = true → exec (.ext b) s = .next (s.After
      { s.regs with errs := s.regs.errs ||| 0b00100 } 0x00000038)) ∧
    decode (if b then 0x00000014 else 0x00000004) = .ok (.ext b)

/-- R123: `EFLUSH` discards the pending bit and returns none. -/
def Obligations.EflushDiscardsThePendingBit : Prop :=
  ∀ s : State,
    (s.regs.busy = false → exec .eflush s = .next (s.After
      { s.regs with pv := false, pb := false } 0x00000000)) ∧
    (s.regs.busy = true → exec .eflush s = .next (s.After
      { s.regs with errs := s.regs.errs ||| 0b00100 } 0x00000038)) ∧
    decode 0x00000005 = .ok .eflush

/-- R161: `BREQ n` starts a request with a new pair; `BREQ 0` changes no register and is done at once. -/
def Obligations.BreqStartsARequest : Prop :=
  ∀ (n : Half) (s : State),
    (s.regs.busy = false → s.regs.seeded = true → n ≠ 0 → exec (.breq n) s = .next (s.After
      { s.regs with req := n, coll := 0, bpos := 0, batches := 0, pv := false, pb := false, busy := true }
      0x00000008)) ∧
    (s.regs.busy = false → s.regs.seeded = true →
      exec (.breq 0) s = .next (s.After s.regs 0x00000004)) ∧
    (s.regs.busy = true → exec (.breq n) s = .next (s.After
      { s.regs with errs := s.regs.errs ||| 0b00100 } 0x00000038)) ∧
    (s.regs.busy = false → s.regs.seeded = false → exec (.breq n) s = .next (s.After
      { s.regs with errs := s.regs.errs ||| 0b00010 } 0x00000020)) ∧
    decode (n.setWidth 32 <<< 16 ||| 0x00000006) = .ok (.breq n)

/-- R162, all of it. With no request: IDLE. Inside a batch: the raw bit is counted and fed to the extractor,
and a survivor is delivered while `COLL < REQ`. At the end of a batch, `BPOS` returns to 0, the pending bit
is dropped and the batch is counted; then the request completes with DONE when all bits are collected,
whatever the bound (corner case (e)), or else is EXHAUSTED at the bound with every other effect (R224), or
else goes on to the next batch. -/
def Obligations.BstepConsumesARawBit : Prop :=
  ∀ (c : Bit) (s : State),
    (s.regs.busy = false → exec (.bstep c) s = .next (s.After
      { s.regs with errs := s.regs.errs ||| 0b01000 } 0x00000040)) ∧
    (s.regs.busy = true → s.regs.bpos.toNat + 1 < 3 * s.regs.req.toNat →
      exec (.bstep c) s = .next (s.After
        { s.regs with
          lfsr := (lfsrNext s.regs.lfsr).1, rawcnt := s.regs.rawcnt + 1, coll := s.regs.nextColl c,
          pv := !s.regs.pv, pb := if s.regs.pv then false else s.regs.nextRaw c,
          bpos := s.regs.bpos + 1 }
        (0x8 ||| outputField (s.regs.nextOut c)))) ∧
    (s.regs.busy = true → s.regs.bpos.toNat + 1 = 3 * s.regs.req.toNat →
      s.regs.nextColl c = s.regs.req →
      exec (.bstep c) s = .next (s.After
        { s.regs with
          lfsr := (lfsrNext s.regs.lfsr).1, rawcnt := s.regs.rawcnt + 1, coll := s.regs.req,
          pv := false, pb := false, bpos := 0, batches := s.regs.batches + 1, busy := false,
          balcnt := s.regs.balcnt + s.regs.req.setWidth 32 }
        (0x4 ||| outputField (s.regs.nextOut c)))) ∧
    (s.regs.busy = true → s.regs.bpos.toNat + 1 = 3 * s.regs.req.toNat →
      s.regs.nextColl c ≠ s.regs.req → s.cfg.maxBatches ≠ 0 →
      s.regs.batches + 1 = s.cfg.maxBatches →
      exec (.bstep c) s = .next (s.After
        { s.regs with
          lfsr := (lfsrNext s.regs.lfsr).1, rawcnt := s.regs.rawcnt + 1, coll := s.regs.nextColl c,
          pv := false, pb := false, bpos := 0, batches := s.regs.batches + 1, busy := false,
          errs := s.regs.errs ||| 0b10000 }
        (0x50 ||| outputField (s.regs.nextOut c)))) ∧
    (s.regs.busy = true → s.regs.bpos.toNat + 1 = 3 * s.regs.req.toNat →
      s.regs.nextColl c ≠ s.regs.req →
      (s.cfg.maxBatches = 0 ∨ s.regs.batches + 1 ≠ s.cfg.maxBatches) →
      exec (.bstep c) s = .next (s.After
        { s.regs with
          lfsr := (lfsrNext s.regs.lfsr).1, rawcnt := s.regs.rawcnt + 1, coll := s.regs.nextColl c,
          pv := false, pb := false, bpos := 0, batches := s.regs.batches + 1 }
        (0x8 ||| outputField (s.regs.nextOut c)))) ∧
    decode (if c then 0x00000017 else 0x00000007) = .ok (.bstep c)

/-- R163: `BABORT` ends the request, keeping `REQ`, `COLL` and `BATCHES`; with no request it does nothing. -/
def Obligations.BabortCancelsTheRequest : Prop :=
  ∀ s : State,
    (s.regs.busy = true → exec .babort s = .next (s.After
      { s.regs with busy := false, pv := false, pb := false, bpos := 0 } 0x00000000)) ∧
    (s.regs.busy = false → exec .babort s = .next (s.After s.regs 0x00000000)) ∧
    decode 0x00000008 = .ok .babort

/-- R33, R191: `RDREG` returns the selected 16-bit value in DATA, and a reserved selector reports ILLEGAL. -/
def Obligations.RdregReadsTheSelectorMap : Prop :=
  ∀ (sel : Sel) (s : State),
    (∀ v : Half,
      (sel.toNat, v) ∈
        [(0, s.regs.lfsr), (1, s.regs.status), (2, s.regs.rawcnt.extractLsb' 0 16),
         (3, s.regs.rawcnt.extractLsb' 16 16), (4, s.regs.balcnt.extractLsb' 0 16),
         (5, s.regs.balcnt.extractLsb' 16 16), (6, s.regs.req), (7, s.regs.coll),
         (8, s.regs.bpos.extractLsb' 0 16), (9, (s.regs.bpos.extractLsb' 16 2).setWidth 16),
         (10, s.regs.batches)] →
      exec (.rdreg sel) s = .next (s.After s.regs
        (v.setWidth 32 <<< 16 ||| busyField s.regs.busy))) ∧
    (10 < sel.toNat → exec (.rdreg sel) s = .next (s.After
      { s.regs with errs := s.regs.errs ||| 0b00001 } (0x10 ||| busyField s.regs.busy))) ∧
    decode (sel.setWidth 32 <<< 8 ||| 0x00000009) = .ok (.rdreg sel)

/-- R32: the layout of STATUS, reserved bits 0. -/
def Obligations.StatusLayout : Prop :=
  ∀ r : Regs,
    r.status.getLsbD 0 = r.seeded ∧ r.status.getLsbD 1 = r.busy ∧ r.status.getLsbD 2 = r.pv ∧
    r.status.getLsbD 3 = r.pb ∧ (∀ k, 4 ≤ k → k ≤ 7 → r.status.getLsbD k = false) ∧
    (∀ k < 5, r.status.getLsbD (8 + k) = r.errs.getLsbD k) ∧
    ∀ k, 13 ≤ k → r.status.getLsbD k = false

/-- R78: the two reads of `RDRAWCNT`, one after the other, give the whole counter, and those of `RDBALCNT`
likewise. -/
def Obligations.CounterReadInTwoHalvesIsWhole : Prop :=
  ∀ s : State, ∃ t u lo hi blo bhi,
    execAll [.rdreg 2, .rdreg 3] s = .next t ∧ newResponses s t = [lo, hi] ∧
    (rspData hi).setWidth 32 <<< 16 ||| (rspData lo).setWidth 32 = s.regs.rawcnt ∧
    execAll [.rdreg 4, .rdreg 5] t = .next u ∧ newResponses t u = [blo, bhi] ∧
    (rspData bhi).setWidth 32 <<< 16 ||| (rspData blo).setWidth 32 = s.regs.balcnt

/-! ## Errors and responses -/

/-- R221: a command that reports ILLEGAL, NOSEED, BUSY or IDLE sets the sticky bit of its code, writes no
other register, its response carries the code, the unchanged BUSY and nothing else, and it consumes no chaotic
bit. -/
def Obligations.ErrorWritesOnlyItsStickyBit : Prop :=
  ∀ (c : Word) (s t : State) (w : Word) (e : Status),
    takeCommand c s = .next t → t.rsp = s.rsp ++ [w] → e ∈ [.illegal, .noseed, .busy, .idle] →
    rspSt w = e.code →
    t = s.After { s.regs with errs := s.regs.errs ||| 1#5 <<< (e.code.toNat - 1) }
      (e.code.setWidth 32 <<< 4 ||| busyField s.regs.busy) ∧
    ∀ i, decode c = .ok i → chaosConsumed i w = 0

/-- R220, R222, R223: the status of every command in every state that meets the invariants. -/
def Obligations.StatusOfEveryCommand : Prop :=
  ∀ (c : Word) (s : State), s.regs.Inv →
    ∃ t w, takeCommand c s = .next t ∧ t.rsp = s.rsp ++ [w] ∧
      (∀ e, decode c = .error e → rspSt w = 1) ∧
      ∀ i, decode c = .ok i → rspSt w = (expectedStatus s.cfg s.regs i).code

/-- R31: a command that reports code k sets `ERRS[k−1]`, no command clears a bit, and only reset clears
`ERRS`. -/
def Obligations.ErrsBitsAreSticky : Prop :=
  ∀ (s : State) (rest : List HostInput),
    (∀ c, s.pending = .cmd c :: rest → ∃ t w, step s = .next t ∧ t.rsp = s.rsp ++ [w] ∧
      t.regs.errs = if rspSt w = 0 then s.regs.errs else s.regs.errs ||| 1#5 <<< ((rspSt w).toNat - 1)) ∧
    (s.pending = .rst :: rest → ∃ t, step s = .next t ∧ t.regs.errs = 0)

/-- R71, D34: the fields of every response: reserved bits 0, OB 0 without OV, BUSY after the command, DATA 0
but for a successful `RDREG`, DONE only from `BSTEP` and `BREQ 0`, an output bit only from the four commands
that produce one. -/
def Obligations.ResponseWordFields : Prop :=
  ∀ (c : Word) (s : State), ∃ t w, takeCommand c s = .next t ∧ t.rsp = s.rsp ++ [w] ∧
    rspRsv w = 0 ∧ (rspOv w = false → rspOb w = false) ∧ rspBusy w = t.regs.busy ∧
    (rspSt w).toNat ≤ 5 ∧
    (rspData w ≠ 0 → rspSt w = 0 ∧ ∃ sel, decode c = .ok (.rdreg sel)) ∧
    (rspDone w = true → decode c = .ok (.breq 0) ∨ ∃ b, decode c = .ok (.bstep b)) ∧
    (rspOv w = true → decode c = .ok .lstep ∨
      ∃ b, decode c = .ok (.raw b) ∨ decode c = .ok (.ext b) ∨ decode c = .ok (.bstep b))

/-! ## What each command leaves unchanged -/

/-- `NOP` and `RDREG` write at most `ERRS`, and that only when the response is not OK (R55, R190, R191). -/
def Obligations.ControlCommandsFrame : Prop :=
  ∀ (sel : Sel) (i : Instr) (s t : State), i ∈ [.nop, .rdreg sel] → exec i s = .next t →
    t.regs = { s.regs with errs := t.regs.errs } ∧ t.cfg = s.cfg ∧ t.pending = s.pending ∧
    ∃ w, t.rsp = s.rsp ++ [w] ∧ (rspSt w = 0 → t.regs.errs = s.regs.errs)

/-- `LSTEP` writes at most `LFSR` and `ERRS`, `RAW` also `RAWCNT`, and `ERRS` only when the response is not OK
(R21, R25, R105, R141). -/
def Obligations.LfsrCommandsFrame : Prop :=
  ∀ (c : Bit) (i : Instr) (s t : State), i ∈ [.lstep, .raw c] → exec i s = .next t →
    t.regs = { s.regs with lfsr := t.regs.lfsr, rawcnt := t.regs.rawcnt, errs := t.regs.errs } ∧
    (i = .lstep → t.regs.rawcnt = s.regs.rawcnt) ∧ t.cfg = s.cfg ∧ t.pending = s.pending ∧
    ∃ w, t.rsp = s.rsp ++ [w] ∧ (rspSt w = 0 → t.regs.errs = s.regs.errs) ∧
      (rspSt w ≠ 0 → t.regs.lfsr = s.regs.lfsr ∧ t.regs.rawcnt = s.regs.rawcnt)

/-- `EXT` and `EFLUSH` write at most `PV`, `PB` and `ERRS`, the last only when the response is not OK
(R122, R123). -/
def Obligations.ExtractorCommandsFrame : Prop :=
  ∀ (b : Bit) (i : Instr) (s t : State), i ∈ [.ext b, .eflush] → exec i s = .next t →
    t.regs = { s.regs with pv := t.regs.pv, pb := t.regs.pb, errs := t.regs.errs } ∧
    t.cfg = s.cfg ∧ t.pending = s.pending ∧
    ∃ w, t.rsp = s.rsp ++ [w] ∧ (rspSt w = 0 → t.regs.errs = s.regs.errs) ∧
      (rspSt w ≠ 0 → t.regs.pv = s.regs.pv ∧ t.regs.pb = s.regs.pb)

/-- `SEED`, `BREQ`, `BSTEP` and `BABORT` leave alone every register that the table of R20 does not list them
for, and `ERRS` unless they report a code. -/
def Obligations.SequencerCommandsFrame : Prop :=
  ∀ (x : Half) (c : Bit) (s t : State),
    (exec (.seed x) s = .next t → t.regs.busy = s.regs.busy) ∧
    (exec (.breq x) s = .next t →
      t.regs.lfsr = s.regs.lfsr ∧ t.regs.seeded = s.regs.seeded ∧ t.regs.rawcnt = s.regs.rawcnt ∧
      t.regs.balcnt = s.regs.balcnt) ∧
    (exec (.bstep c) s = .next t → t.regs.seeded = s.regs.seeded ∧ t.regs.req = s.regs.req) ∧
    (exec .babort s = .next t →
      t.regs = { s.regs with busy := t.regs.busy, pv := t.regs.pv, pb := t.regs.pb, bpos := t.regs.bpos }) ∧
    ∀ i ∈ [Instr.seed x, .breq x, .bstep c, .babort], exec i s = .next t →
      t.cfg = s.cfg ∧ t.pending = s.pending ∧
      ∃ w, t.rsp = s.rsp ++ [w] ∧ (rspSt w = 0 → t.regs.errs = s.regs.errs)

/-! ## Invariants and rules on the whole machine -/

/-- R34: every step keeps the invariants (a) to (g), from every state that meets them. -/
def Obligations.StepKeepsTheInvariants : Prop :=
  ∀ s t : State, s.regs.Inv → step s = .next t → t.regs.Inv

/-- R34 holds of the reset state. -/
def Obligations.ResetMeetsTheInvariants : Prop := State.reset.regs.Inv

/-- A request under a bound always has completed fewer batches than the bound (R162, R166). -/
def Obligations.StepKeepsBatchesBelowTheBound : Prop :=
  ∀ s t : State, s.BelowRetryBound → step s = .next t → t.BelowRetryBound

/-- R23: `SEEDED` is 0 after reset, set by a `SEED` that completes, and written by nothing else; while it is
0, `LSTEP`, `RAW` and `BREQ` report NOSEED. -/
def Obligations.SeededIsSetBySeedOnly : Prop :=
  Regs.reset.seeded = false ∧
  (∀ (s : State) (rest : List HostInput) (c : Word), s.pending = .cmd c :: rest →
    ∃ t, step s = .next t ∧
      (t.regs.seeded = true ↔
        s.regs.seeded = true ∨ (s.regs.busy = false ∧ ∃ imm, decode c = .ok (.seed imm)))) ∧
  ∀ (s : State) (i : Instr) (b : Bit) (n : Half), s.regs.Inv → s.regs.seeded = false →
    i ∈ [.lstep, .raw b, .breq n] → ∃ t w, exec i s = .next t ∧ t.rsp = s.rsp ++ [w] ∧ rspSt w = 2

/-- R27: a request begins only by a `BREQ` of at least 1 and ends only by `BABORT`, or by a `BSTEP` that
reports DONE or EXHAUSTED. -/
def Obligations.RequestsBeginAndEndByTheirCommands : Prop :=
  ∀ (i : Instr) (s t : State) (w : Word), exec i s = .next t → t.rsp = s.rsp ++ [w] →
    (s.regs.busy = false → t.regs.busy = true →
      s.regs.seeded = true ∧ ∃ n, n ≠ 0 ∧ i = .breq n ∧ t.regs.req = n) ∧
    (s.regs.busy = true → t.regs.busy = false →
      i = .babort ∨ ((∃ b, i = .bstep b) ∧ (rspDone w = true ∨ rspSt w = 5)))

/-- R25: `RAWCNT` grows by one, modulo 2^32, for each raw bit of `RAW` and `BSTEP`, which is one for each
chaotic bit consumed (R255, R257), `SEED` clears it, and nothing else changes it. `SEED` apart, the LFSR moves
with it, by `LSTEP`, and by nothing else. -/
def Obligations.RawcntCountsConsumedChaoticBits : Prop :=
  ∀ (i : Instr) (s t : State) (w : Word), exec i s = .next t → t.rsp = s.rsp ++ [w] →
    (∀ imm, i = .seed imm → t.regs.rawcnt = if rspSt w = 0 then 0 else s.regs.rawcnt) ∧
    ((∀ imm, i ≠ .seed imm) →
      t.regs.rawcnt = s.regs.rawcnt + BitVec.ofNat 32 (chaosConsumed i w) ∧
      (chaosConsumed i w = 1 → t.regs.lfsr = (lfsrNext s.regs.lfsr).1) ∧
      (chaosConsumed i w = 0 → i ≠ .lstep → t.regs.lfsr = s.regs.lfsr))

/-- R26: `BALCNT` grows by `REQ`, modulo 2^32, when a request completes, `SEED` clears it, and nothing else
changes it: not an aborted or exhausted request, not `BREQ 0`. -/
def Obligations.BalcntCountsCompletedRequests : Prop :=
  ∀ (i : Instr) (s t : State) (w : Word), exec i s = .next t → t.rsp = s.rsp ++ [w] →
    (∀ imm, i = .seed imm → t.regs.balcnt = if rspSt w = 0 then 0 else s.regs.balcnt) ∧
    ((∀ imm, i ≠ .seed imm) → t.regs.balcnt =
      if rspDone w = true ∧ i ≠ .breq 0 then s.regs.balcnt + s.regs.req.setWidth 32 else s.regs.balcnt)

/-- R252: before the first `SEED`, `NOP`, `RDREG`, `EXT`, `EFLUSH`, `BABORT` and `SEED` succeed, `LSTEP`, `RAW`
and `BREQ` report NOSEED, and `BSTEP` reports IDLE. -/
def Obligations.CommandsBeforeTheFirstSeed : Prop :=
  ∀ (s : State) (imm : Half) (b : Bit) (sel : Sel), s.regs.Inv → s.regs.seeded = false → sel.toNat ≤ 10 →
    (∀ i ∈ [Instr.nop, .rdreg sel, .ext b, .eflush, .babort, .seed imm],
      ∃ t w, exec i s = .next t ∧ t.rsp = s.rsp ++ [w] ∧ rspSt w = 0) ∧
    (∀ i ∈ [Instr.lstep, .raw b, .breq imm],
      exec i s = .next (s.After { s.regs with errs := s.regs.errs ||| 0b00010 } 0x00000020)) ∧
    exec (.bstep b) s = .next (s.After { s.regs with errs := s.regs.errs ||| 0b01000 } 0x00000040)

/-- R55: `NOP`, `RDREG`, `SEED`, `EFLUSH`, `BABORT` and `BREQ 0` are idempotent on the registers. -/
def Obligations.RepeatingAnIdempotentCommandChangesNothing : Prop :=
  ∀ (sel : Sel) (imm : Half) (i : Instr) (s : State),
    i ∈ [.nop, .rdreg sel, .seed imm, .eflush, .babort, .breq 0] →
    ∃ t u, exec i s = .next t ∧ exec i t = .next u ∧ u.regs = t.regs

/-! ## Sequences of commands -/

/-- R124, R125: `EXT` over any bit sequence from `PV = 0`, and then `EFLUSH`, delivers the first bits of the
unequal pairs at positions (0,1), (2,3), …, at most half as many bits as it was given. -/
def Obligations.ExtractorStreamIsThePairFunction : Prop :=
  ∀ (xs : List Bit) (s : State), s.regs.busy = false → s.regs.pv = false →
    ∃ t, execAll (xs.map .ext ++ [.eflush]) s = .next t ∧
      newOutputs s t = (List.range (xs.length / 2)).filterMap (fun k =>
        if xs.getD (2 * k) false ≠ xs.getD (2 * k + 1) false then some (xs.getD (2 * k) false) else none) ∧
      (newOutputs s t).length ≤ xs.length / 2 ∧
      t.regs = { s.regs with pv := false, pb := false }

/-- R140, R143: `RAW` over any chaotic bits delivers LFSR output bit k xor chaotic bit k, and `RAWCNT` grows by
their number modulo 2^32. -/
def Obligations.RawStreamIsTheXorOfTheStreams : Prop :=
  ∀ (cs : List Bit) (s : State), s.Ready →
    ∃ t, execAll (cs.map .raw) s = .next t ∧
      newOutputs s t =
        List.zipWith xor ((List.range cs.length).map (lfsrOut s.regs.lfsr)) cs ∧
      t.regs = { s.regs with
        lfsr := lfsrState s.regs.lfsr cs.length, rawcnt := s.regs.rawcnt + BitVec.ofNat 32 cs.length }

/-- R160, R165, R168: where the document's `generate_balanced_bits(c)` returns after b batches, `BREQ c` and
3·c·b `BSTEP`s deliver exactly its bits in order, with DONE on the last response and OK on all, and leave the
registers of R168. The bound, where there is one, is not below b. The function's bound on its batches (`fuel`) is
log entry 13: the statement is about the runs in which it returns. -/
def Obligations.SequencerProducesTheDocumentsBits : Prop :=
  ∀ (c : Half) (fuel : Nat) (cs : List Bit) (out : Balanced) (s : State),
    s.Ready → c ≠ 0 → kOver * c.toNat * fuel ≤ cs.length →
    generateBalanced c.toNat fuel 0 [] s.regs.lfsr cs = some out →
    (s.cfg.maxBatches = 0 ∨ out.batches ≤ s.cfg.maxBatches.toNat) →
    ∃ t, execAll (.breq c :: (cs.take (kOver * c.toNat * out.batches)).map .bstep) s = .next t ∧
      newOutputs s t = out.bits ∧ out.bits.length = c.toNat ∧ 1 ≤ out.batches ∧
      (newResponses s t).map rspDone =
        List.replicate (kOver * c.toNat * out.batches) false ++ [true] ∧
      (∀ w ∈ newResponses s t, rspSt w = 0) ∧
      out.lfsr = lfsrState s.regs.lfsr (kOver * c.toNat * out.batches) ∧
      t.regs = { s.regs with
        lfsr := out.lfsr, pv := false, pb := false, busy := false, req := c, coll := c, bpos := 0,
        batches := BitVec.ofNat 16 out.batches,
        rawcnt := s.regs.rawcnt + BitVec.ofNat 32 (kOver * c.toNat * out.batches),
        balcnt := s.regs.balcnt + c.setWidth 32 }

/-- R164: the host's own loop of `RAW`, `EFLUSH` and `EXT` returns the same bits after the same number of
batches and leaves the same LFSR as the document's function, which the sequencer computes too. That both give
nothing when the bound on the batches (`fuel`) is used up is the model's choice, log entry 13. -/
def Obligations.HostLoopProducesTheDocumentsBits : Prop :=
  ∀ (c fuel : Nat) (cs : List Bit) (s : State), s.Ready → 1 ≤ c → kOver * c * fuel ≤ cs.length →
    loopBalanced c fuel 0 [] s cs = generateBalanced c fuel 0 [] s.regs.lfsr cs

/-- R28, R169: the bits delivered since `BREQ c` are counted by `COLL` and are never more than c, whatever
becomes of the request. -/
def Obligations.DeliveredBitsAreCountedByColl : Prop :=
  ∀ (c : Half) (cs : List Bit) (s : State), s.Ready → c ≠ 0 →
    ∃ t, execAll (.breq c :: cs.map .bstep) s = .next t ∧
      (newOutputs s t).length = t.regs.coll.toNat ∧ t.regs.coll.toNat ≤ c.toNat ∧ t.regs.req = c

/-- R165, R194: whatever the state and the chaotic bits, a request that the host drives to DONE returns
exactly count bits. That `driveRequest` stops when the bits given run out is log entry 13. -/
def Obligations.CompletedRequestReturnsExactlyCountBits : Prop :=
  ∀ (count : Nat) (cs left : List Bit) (s t : State) (bits : List Bit),
    generateBalancedBits count cs s = (.result bits, t, left) → bits.length = count

/-- R166, R258: with `MAX_BATCHES = M ≥ 1` a request of count c has ended, with DONE or EXHAUSTED, after at
most 3·c·M `BSTEP`s. -/
def Obligations.BoundedRequestEnds : Prop :=
  ∀ (c : Half) (cs : List Bit) (s : State), s.Ready → c ≠ 0 → s.cfg.maxBatches ≠ 0 →
    cs.length = 3 * c.toNat * s.cfg.maxBatches.toNat →
    ∃ k ≤ cs.length, ∃ t w ws, execAll (.breq c :: (cs.take k).map .bstep) s = .next t ∧
      t.regs.busy = false ∧ newResponses s t = ws ++ [w] ∧ (rspDone w = true ∨ rspSt w = 5)

/-- R166: with no bound, an LFSR of 0 and a constant chaotic bit, a request stays active for ever and delivers
nothing. -/
def Obligations.ConstantStreamNeverEndsARequest : Prop :=
  ∀ (c : Half) (b : Bit) (n : Nat) (s : State), s.Ready → c ≠ 0 → s.cfg.maxBatches = 0 →
    s.regs.lfsr = 0 →
    ∃ t, execAll (.breq c :: List.replicate n (.bstep b)) s = .next t ∧
      t.regs.busy = true ∧ newOutputs s t = []

/-- R104, R165: after the same `SEED`, two idle blocks with the same bound return the same responses to the
same commands, whatever happened before, as long as no command reads STATUS (which shows old sticky errors). -/
def Obligations.SeedErasesTheHistory : Prop :=
  ∀ (x : Half) (is : List Instr) (s₁ s₂ : State), s₁.regs.busy = false → s₂.regs.busy = false →
    s₁.cfg = s₂.cfg → (.rdreg 1) ∉ is →
    ∃ t₁ t₂, execAll (.seed x :: is) s₁ = .next t₁ ∧ execAll (.seed x :: is) s₂ = .next t₂ ∧
      newResponses s₁ t₁ = newResponses s₂ t₂ ∧ t₁.regs = { t₂.regs with errs := t₁.regs.errs }

/-! ## Host procedures -/

/-- R53, R196: bytes are packed with the first bit produced as bit 0, and unpacking gives the bits back. -/
def Obligations.PackedBytesUnpackToTheBits : Prop :=
  ∀ bits : List Bit, bits.length % 8 = 0 →
    (packBytes bits).length = bits.length / 8 ∧ bitsOfBytes (packBytes bits) = bits

/-- R197: decrypting with a fresh generator from the same seed and the same chaotic bits gives the message
back, whatever state of the block the generators are constructed in. -/
def Obligations.DecryptUndoesEncrypt : Prop :=
  ∀ (seed : Int) (message : List Byte) (cipher : List (BitVec 4)) (cs : List Bit) (s t : State),
    s.cfg = t.cfg → t.regs.busy = false →
    encryptNibbles seed message cs s = some cipher → decryptNibbles seed cipher cs t = some message

/-- R195: a request that ends exhausted, or that the host cancels, gives no bits and leaves no request active,
and constructing the generator again from its seed then succeeds and gives a fresh generator, `ERRS` apart. A
request that is cancelled has reported no code. That the host cancels when the chaotic bits it gives run out is
the model's choice, log entry 13. -/
def Obligations.FailedRequestIsDiscardedAndReseeded : Prop :=
  ∀ (seed : Int) (g : NewGenerator) (count : Nat) (cs left : List Bit) (s t : State) (e : RequestEnd),
    constructGenerator seed = some g → generateOrCancel count cs s = (e, t, left) → e.needsSeed = true →
    (∀ bits, e ≠ .result bits) ∧ t.regs.busy = false ∧ t.regs.balcnt = s.regs.balcnt ∧
    (e = .exhausted → rspSt t.lastResponse = 5 ∧ t.regs.errs = s.regs.errs ||| 0b10000) ∧
    (e = .cancelled → left = [] ∧ t.regs.errs = s.regs.errs ∧
      t.regs.lfsr = lfsrState s.regs.lfsr cs.length ∧
      t.regs.rawcnt = s.regs.rawcnt + BitVec.ofNat 32 cs.length) ∧
    ∃ u, restoreGenerator seed e t = some u ∧ u.cfg = s.cfg ∧
      u.regs = { Regs.reset with lfsr := subSeed seed.toNat, seeded := true, errs := t.regs.errs }
end

