-- ==== Sys2Proof/Laws/Decode.lean ====
section
/-! SUPPORT. The opcode map: its rows are disjoint, and each command's word is selected by its own row. -/
namespace Sys2Proof

/-- Two rows that no word can satisfy both: their match values differ in a bit that both masks check. -/
def OpcodeRow.apart (r q : OpcodeRow) : Bool :=
  r.pattern &&& (r.mask &&& q.mask) != q.pattern &&& (r.mask &&& q.mask)

/-- "The rows are disjoint" (R72). -/
theorem opcodeRows_apart : opcodeRows.Pairwise (fun r q => r.apart q = true) := by decide

/-- Rows that are apart select no common word. -/
theorem OpcodeRow.not_both {r q : OpcodeRow} (h : r.apart q = true) (w : Word) :
    ¬(r.selects w = true ∧ q.selects w = true) := by
  rintro ⟨hr, hq⟩
  simp only [OpcodeRow.selects, beq_iff_eq] at hr hq
  simp only [OpcodeRow.apart, bne_iff_ne] at h
  apply h
  rw [← hr, ← hq]
  ext i
  simp only [BitVec.getElem_and]
  cases w[i] <;> cases r.mask[i] <;> cases q.mask[i] <;> rfl

/-- Where rows are apart, a row that selects a word is the one `find?` gives. -/
theorem find_selecting_row {rows : List OpcodeRow} (h : rows.Pairwise (fun r q => r.apart q = true))
    {r : OpcodeRow} (hr : r ∈ rows) {w : Word} (hw : r.selects w = true) :
    rows.find? (fun q => q.selects w) = some r := by
  induction rows with
  | nil => cases hr
  | cons q qs ih =>
    rw [List.pairwise_cons] at h
    rcases List.mem_cons.mp hr with rfl | hr
    · simp [hw]
    · have hq : q.selects w = false := by
        by_contra hq
        exact OpcodeRow.not_both (h.1 r hr) w ⟨by simpa using hq, hw⟩
      simpa [hq] using ih h.2 hr

/-- R72, R76 as one statement: a word decodes to what the row that selects it builds. -/
theorem decode_eq_ok_iff (w : Word) (i : Instr) :
    decode w = .ok i ↔ ∃ r ∈ opcodeRows, r.selects w = true ∧ r.build w = i := by
  constructor
  · intro h
    unfold decode at h
    split at h
    · rename_i r hr
      exact ⟨r, List.mem_of_find?_eq_some hr, by simpa using List.find?_some hr, by simpa using h⟩
    · cases h
  · rintro ⟨r, hr, hw, rfl⟩
    simp [decode, find_selecting_row opcodeRows_apart hr hw]

/-- The table word of a word of 32 bits is the word. -/
@[simp] theorem tableWord_toNat (w : Word) : tableWord 32 w.toNat = w := by
  simp [tableWord, Nat.mod_eq_of_lt w.isLt]

end Sys2Proof
end

