-- ==== Sys2Proof/Laws/State.lean ====
section
/-! SUPPORT. The fields of every named update of the registers and of the state, each true by definition, so
that no proof unfolds a record update. -/
namespace Sys2Proof.Machine

/-! `State.After` is the normal form of a completed command. -/

@[simp] theorem State.respond_eq_after (s : State) (r : Regs) (x : Response) :
    s.respond r x = s.After r (x.word r.busy) := rfl
@[simp] theorem State.after_regs (s : State) (r : Regs) (w : Word) : (s.After r w).regs = r := rfl
@[simp] theorem State.after_cfg (s : State) (r : Regs) (w : Word) : (s.After r w).cfg = s.cfg := rfl
@[simp] theorem State.after_pending (s : State) (r : Regs) (w : Word) :
    (s.After r w).pending = s.pending := rfl
@[simp] theorem State.after_rsp (s : State) (r : Regs) (w : Word) : (s.After r w).rsp = s.rsp ++ [w] := rfl

@[simp] theorem State.present_regs (s : State) (x : HostInput) : (s.present x).regs = s.regs := rfl
@[simp] theorem State.present_cfg (s : State) (x : HostInput) : (s.present x).cfg = s.cfg := rfl
@[simp] theorem State.present_pending (s : State) (x : HostInput) :
    (s.present x).pending = s.pending ++ [x] := rfl
@[simp] theorem State.present_rsp (s : State) (x : HostInput) : (s.present x).rsp = s.rsp := rfl
@[simp] theorem State.presentNext_regs (s : State) (w : Word) : (s.presentNext w).regs = s.regs := rfl
@[simp] theorem State.presentNext_cfg (s : State) (w : Word) : (s.presentNext w).cfg = s.cfg := rfl
@[simp] theorem State.presentNext_pending (s : State) (w : Word) :
    (s.presentNext w).pending = .cmd w :: s.pending := rfl
@[simp] theorem State.presentNext_rsp (s : State) (w : Word) : (s.presentNext w).rsp = s.rsp := rfl

/-! `Regs.setErr`. -/

section
variable (e : Status) (r : Regs)
@[simp] theorem Regs.setErr_lfsr : (r.setErr e).lfsr = r.lfsr := rfl
@[simp] theorem Regs.setErr_seeded : (r.setErr e).seeded = r.seeded := rfl
@[simp] theorem Regs.setErr_pv : (r.setErr e).pv = r.pv := rfl
@[simp] theorem Regs.setErr_pb : (r.setErr e).pb = r.pb := rfl
@[simp] theorem Regs.setErr_rawcnt : (r.setErr e).rawcnt = r.rawcnt := rfl
@[simp] theorem Regs.setErr_balcnt : (r.setErr e).balcnt = r.balcnt := rfl
@[simp] theorem Regs.setErr_busy : (r.setErr e).busy = r.busy := rfl
@[simp] theorem Regs.setErr_req : (r.setErr e).req = r.req := rfl
@[simp] theorem Regs.setErr_coll : (r.setErr e).coll = r.coll := rfl
@[simp] theorem Regs.setErr_bpos : (r.setErr e).bpos = r.bpos := rfl
@[simp] theorem Regs.setErr_batches : (r.setErr e).batches = r.batches := rfl
@[simp] theorem Regs.setErr_errs : (r.setErr e).errs = r.errs ||| e.errBit := rfl
end

/-! `Regs.clearPair`. -/

section
variable (r : Regs)
@[simp] theorem Regs.clearPair_lfsr : (r.clearPair).lfsr = r.lfsr := rfl
@[simp] theorem Regs.clearPair_seeded : (r.clearPair).seeded = r.seeded := rfl
@[simp] theorem Regs.clearPair_pv : (r.clearPair).pv = false := rfl
@[simp] theorem Regs.clearPair_pb : (r.clearPair).pb = false := rfl
@[simp] theorem Regs.clearPair_rawcnt : (r.clearPair).rawcnt = r.rawcnt := rfl
@[simp] theorem Regs.clearPair_balcnt : (r.clearPair).balcnt = r.balcnt := rfl
@[simp] theorem Regs.clearPair_busy : (r.clearPair).busy = r.busy := rfl
@[simp] theorem Regs.clearPair_req : (r.clearPair).req = r.req := rfl
@[simp] theorem Regs.clearPair_coll : (r.clearPair).coll = r.coll := rfl
@[simp] theorem Regs.clearPair_bpos : (r.clearPair).bpos = r.bpos := rfl
@[simp] theorem Regs.clearPair_batches : (r.clearPair).batches = r.batches := rfl
@[simp] theorem Regs.clearPair_errs : (r.clearPair).errs = r.errs := rfl
end

/-! `Regs.seedWith`. -/

section
variable (x : Half) (r : Regs)
@[simp] theorem Regs.seedWith_lfsr : (r.seedWith x).lfsr = seedValue x := rfl
@[simp] theorem Regs.seedWith_seeded : (r.seedWith x).seeded = true := rfl
@[simp] theorem Regs.seedWith_pv : (r.seedWith x).pv = false := rfl
@[simp] theorem Regs.seedWith_pb : (r.seedWith x).pb = false := rfl
@[simp] theorem Regs.seedWith_rawcnt : (r.seedWith x).rawcnt = 0 := rfl
@[simp] theorem Regs.seedWith_balcnt : (r.seedWith x).balcnt = 0 := rfl
@[simp] theorem Regs.seedWith_busy : (r.seedWith x).busy = r.busy := rfl
@[simp] theorem Regs.seedWith_req : (r.seedWith x).req = 0 := rfl
@[simp] theorem Regs.seedWith_coll : (r.seedWith x).coll = 0 := rfl
@[simp] theorem Regs.seedWith_bpos : (r.seedWith x).bpos = 0 := rfl
@[simp] theorem Regs.seedWith_batches : (r.seedWith x).batches = 0 := rfl
@[simp] theorem Regs.seedWith_errs : (r.seedWith x).errs = r.errs := rfl
end

/-! `Regs.countRaw`. -/

section
variable (r : Regs)
@[simp] theorem Regs.countRaw_lfsr : (r.countRaw).lfsr = (lfsrNext r.lfsr).1 := rfl
@[simp] theorem Regs.countRaw_seeded : (r.countRaw).seeded = r.seeded := rfl
@[simp] theorem Regs.countRaw_pv : (r.countRaw).pv = r.pv := rfl
@[simp] theorem Regs.countRaw_pb : (r.countRaw).pb = r.pb := rfl
@[simp] theorem Regs.countRaw_rawcnt : (r.countRaw).rawcnt = r.rawcnt + 1 := rfl
@[simp] theorem Regs.countRaw_balcnt : (r.countRaw).balcnt = r.balcnt := rfl
@[simp] theorem Regs.countRaw_busy : (r.countRaw).busy = r.busy := rfl
@[simp] theorem Regs.countRaw_req : (r.countRaw).req = r.req := rfl
@[simp] theorem Regs.countRaw_coll : (r.countRaw).coll = r.coll := rfl
@[simp] theorem Regs.countRaw_bpos : (r.countRaw).bpos = r.bpos := rfl
@[simp] theorem Regs.countRaw_batches : (r.countRaw).batches = r.batches := rfl
@[simp] theorem Regs.countRaw_errs : (r.countRaw).errs = r.errs := rfl
end

/-! `Regs.startRequest`. -/

section
variable (n : Half) (r : Regs)
@[simp] theorem Regs.startRequest_lfsr : (r.startRequest n).lfsr = r.lfsr := rfl
@[simp] theorem Regs.startRequest_seeded : (r.startRequest n).seeded = r.seeded := rfl
@[simp] theorem Regs.startRequest_pv : (r.startRequest n).pv = false := rfl
@[simp] theorem Regs.startRequest_pb : (r.startRequest n).pb = false := rfl
@[simp] theorem Regs.startRequest_rawcnt : (r.startRequest n).rawcnt = r.rawcnt := rfl
@[simp] theorem Regs.startRequest_balcnt : (r.startRequest n).balcnt = r.balcnt := rfl
@[simp] theorem Regs.startRequest_busy : (r.startRequest n).busy = true := rfl
@[simp] theorem Regs.startRequest_req : (r.startRequest n).req = n := rfl
@[simp] theorem Regs.startRequest_coll : (r.startRequest n).coll = 0 := rfl
@[simp] theorem Regs.startRequest_bpos : (r.startRequest n).bpos = 0 := rfl
@[simp] theorem Regs.startRequest_batches : (r.startRequest n).batches = 0 := rfl
@[simp] theorem Regs.startRequest_errs : (r.startRequest n).errs = r.errs := rfl
end

/-! `Regs.takeRaw`. -/

section
variable (r : Regs) (c : Bit)
@[simp] theorem Regs.takeRaw_lfsr : (r.takeRaw c).lfsr = (lfsrNext r.lfsr).1 := rfl
@[simp] theorem Regs.takeRaw_seeded : (r.takeRaw c).seeded = r.seeded := rfl
@[simp] theorem Regs.takeRaw_pv : (r.takeRaw c).pv = r.pv := rfl
@[simp] theorem Regs.takeRaw_pb : (r.takeRaw c).pb = r.pb := rfl
@[simp] theorem Regs.takeRaw_rawcnt : (r.takeRaw c).rawcnt = r.rawcnt + 1 := rfl
@[simp] theorem Regs.takeRaw_balcnt : (r.takeRaw c).balcnt = r.balcnt := rfl
@[simp] theorem Regs.takeRaw_busy : (r.takeRaw c).busy = r.busy := rfl
@[simp] theorem Regs.takeRaw_req : (r.takeRaw c).req = r.req := rfl
@[simp] theorem Regs.takeRaw_coll : (r.takeRaw c).coll = r.coll + Bit.toHalf (r.delivered c).isSome := rfl
@[simp] theorem Regs.takeRaw_bpos : (r.takeRaw c).bpos = r.bpos := rfl
@[simp] theorem Regs.takeRaw_batches : (r.takeRaw c).batches = r.batches := rfl
@[simp] theorem Regs.takeRaw_errs : (r.takeRaw c).errs = r.errs := rfl
end

/-! `Regs.closeBatch`. -/

section
variable (r : Regs)
@[simp] theorem Regs.closeBatch_lfsr : (r.closeBatch).lfsr = r.lfsr := rfl
@[simp] theorem Regs.closeBatch_seeded : (r.closeBatch).seeded = r.seeded := rfl
@[simp] theorem Regs.closeBatch_pv : (r.closeBatch).pv = false := rfl
@[simp] theorem Regs.closeBatch_pb : (r.closeBatch).pb = false := rfl
@[simp] theorem Regs.closeBatch_rawcnt : (r.closeBatch).rawcnt = r.rawcnt := rfl
@[simp] theorem Regs.closeBatch_balcnt : (r.closeBatch).balcnt = r.balcnt := rfl
@[simp] theorem Regs.closeBatch_busy : (r.closeBatch).busy = r.busy := rfl
@[simp] theorem Regs.closeBatch_req : (r.closeBatch).req = r.req := rfl
@[simp] theorem Regs.closeBatch_coll : (r.closeBatch).coll = r.coll := rfl
@[simp] theorem Regs.closeBatch_bpos : (r.closeBatch).bpos = 0 := rfl
@[simp] theorem Regs.closeBatch_batches : (r.closeBatch).batches = r.batches + 1 := rfl
@[simp] theorem Regs.closeBatch_errs : (r.closeBatch).errs = r.errs := rfl
end

/-! `Regs.finishRequest`. -/

section
variable (r : Regs)
@[simp] theorem Regs.finishRequest_lfsr : (r.finishRequest).lfsr = r.lfsr := rfl
@[simp] theorem Regs.finishRequest_seeded : (r.finishRequest).seeded = r.seeded := rfl
@[simp] theorem Regs.finishRequest_pv : (r.finishRequest).pv = r.pv := rfl
@[simp] theorem Regs.finishRequest_pb : (r.finishRequest).pb = r.pb := rfl
@[simp] theorem Regs.finishRequest_rawcnt : (r.finishRequest).rawcnt = r.rawcnt := rfl
@[simp] theorem Regs.finishRequest_balcnt : (r.finishRequest).balcnt = r.balcnt + r.req.setWidth 32 := rfl
@[simp] theorem Regs.finishRequest_busy : (r.finishRequest).busy = false := rfl
@[simp] theorem Regs.finishRequest_req : (r.finishRequest).req = r.req := rfl
@[simp] theorem Regs.finishRequest_coll : (r.finishRequest).coll = r.coll := rfl
@[simp] theorem Regs.finishRequest_bpos : (r.finishRequest).bpos = r.bpos := rfl
@[simp] theorem Regs.finishRequest_batches : (r.finishRequest).batches = r.batches := rfl
@[simp] theorem Regs.finishRequest_errs : (r.finishRequest).errs = r.errs := rfl
end

/-! `Regs.cancelRequest`. -/

section
variable (r : Regs)
@[simp] theorem Regs.cancelRequest_lfsr : (r.cancelRequest).lfsr = r.lfsr := rfl
@[simp] theorem Regs.cancelRequest_seeded : (r.cancelRequest).seeded = r.seeded := rfl
@[simp] theorem Regs.cancelRequest_pv : (r.cancelRequest).pv = false := rfl
@[simp] theorem Regs.cancelRequest_pb : (r.cancelRequest).pb = false := rfl
@[simp] theorem Regs.cancelRequest_rawcnt : (r.cancelRequest).rawcnt = r.rawcnt := rfl
@[simp] theorem Regs.cancelRequest_balcnt : (r.cancelRequest).balcnt = r.balcnt := rfl
@[simp] theorem Regs.cancelRequest_busy : (r.cancelRequest).busy = false := rfl
@[simp] theorem Regs.cancelRequest_req : (r.cancelRequest).req = r.req := rfl
@[simp] theorem Regs.cancelRequest_coll : (r.cancelRequest).coll = r.coll := rfl
@[simp] theorem Regs.cancelRequest_bpos : (r.cancelRequest).bpos = 0 := rfl
@[simp] theorem Regs.cancelRequest_batches : (r.cancelRequest).batches = r.batches := rfl
@[simp] theorem Regs.cancelRequest_errs : (r.cancelRequest).errs = r.errs := rfl
end

end Sys2Proof.Machine
end

