-- ==== Sys2Proof/Laws/Ops.lean ====
section
/-! SUPPORT. What each shared operation can do, said once: provers cite these and do not unfold. -/
namespace Sys2Proof.Machine

/-! ## Completing and turning away -/

@[simp] theorem complete_eq (s : State) (r : Regs) (x : Response) :
    complete s r x = .next (s.After r (x.word r.busy)) := rfl

@[simp] theorem raiseError_eq (e : Status) (s : State) :
    raiseError e s = .next (s.After (s.regs.setErr e) (({ st := e } : Response).word s.regs.busy)) := rfl

@[simp] theorem unlessBusy_busy {s : State} (h : s.regs.busy = true) (k : Result) :
    unlessBusy s k = raiseError .busy s := by simp [unlessBusy, h]

@[simp] theorem unlessBusy_idle {s : State} (h : s.regs.busy = false) (k : Result) :
    unlessBusy s k = k := by simp [unlessBusy, h]

@[simp] theorem whenSeeded_seeded {s : State} (h : s.regs.seeded = true) (k : Result) :
    whenSeeded s k = k := by simp [whenSeeded, h]

@[simp] theorem whenSeeded_unseeded {s : State} (h : s.regs.seeded = false) (k : Result) :
    whenSeeded s k = raiseError .noseed s := by simp [whenSeeded, h]

@[simp] theorem whenBusy_busy {s : State} (h : s.regs.busy = true) (k : Result) :
    whenBusy s k = k := by simp [whenBusy, h]

@[simp] theorem whenBusy_idle {s : State} (h : s.regs.busy = false) (k : Result) :
    whenBusy s k = raiseError .idle s := by simp [whenBusy, h]

/-- What `unlessBusy` can answer. -/
theorem unlessBusy_cases (s : State) (k : Result) :
    (s.regs.busy = true ∧ unlessBusy s k = raiseError .busy s) ∨
      (s.regs.busy = false ∧ unlessBusy s k = k) := by
  cases h : s.regs.busy with
  | true => exact .inl ⟨rfl, unlessBusy_busy h k⟩
  | false => exact .inr ⟨rfl, unlessBusy_idle h k⟩

/-- What `whenSeeded` can answer. -/
theorem whenSeeded_cases (s : State) (k : Result) :
    (s.regs.seeded = false ∧ whenSeeded s k = raiseError .noseed s) ∨
      (s.regs.seeded = true ∧ whenSeeded s k = k) := by
  cases h : s.regs.seeded with
  | false => exact .inl ⟨rfl, whenSeeded_unseeded h k⟩
  | true => exact .inr ⟨rfl, whenSeeded_seeded h k⟩

/-- What `whenBusy` can answer. -/
theorem whenBusy_cases (s : State) (k : Result) :
    (s.regs.busy = false ∧ whenBusy s k = raiseError .idle s) ∨
      (s.regs.busy = true ∧ whenBusy s k = k) := by
  cases h : s.regs.busy with
  | false => exact .inl ⟨rfl, whenBusy_idle h k⟩
  | true => exact .inr ⟨rfl, whenBusy_busy h k⟩

/-- The three ends of a batch (R162). -/
theorem endBatch_cases (s : State) (r : Regs) (x : Response) :
    (r.coll = r.req ∧ endBatch s r x = complete s r.finishRequest { x with done := true }) ∨
    (r.coll ≠ r.req ∧ retryExhausted s.cfg r.batches = true ∧
      endBatch s r x =
        complete s ({ r with busy := false }.setErr .exhausted) { x with st := .exhausted }) ∨
    (r.coll ≠ r.req ∧ retryExhausted s.cfg r.batches = false ∧ endBatch s r x = complete s r x) := by
  unfold endBatch
  by_cases h : r.coll = r.req
  · exact .inl ⟨h, by simp [h]⟩
  · cases e : retryExhausted s.cfg r.batches with
    | true => exact .inr (.inl ⟨h, rfl, by simp [h]⟩)
    | false => exact .inr (.inr ⟨h, rfl, by simp [h]⟩)

/-- When the safeguard acts (R162). -/
theorem retryExhausted_iff (cfg : Config) (n : Half) :
    retryExhausted cfg n = true ↔ cfg.maxBatches ≠ 0 ∧ n = cfg.maxBatches := by
  simp [retryExhausted]

/-! ## The datapath -/

@[simp] theorem lfsrNext_out (s : Half) : (lfsrNext s).2 = s.getLsbD 0 := rfl

@[simp] theorem combine_state (s : Half) (c : Bit) : (combine s c).1 = (lfsrNext s).1 := rfl

@[simp] theorem combine_bit (s : Half) (c : Bit) : (combine s c).2 = (s.getLsbD 0 ^^ c) := rfl

@[simp] theorem vnFeed_first (pb b : Bit) : vnFeed false pb b = (true, b, none) := rfl

@[simp] theorem vnFeed_second (pb b : Bit) :
    vnFeed true pb b = (false, false, if pb = b then none else some pb) := by
  cases pb <;> cases b <;> rfl

/-- `BLEN` as a number: it never overflows its 18 bits (R73). -/
theorem batchLength_toNat (req : Half) : (batchLength req).toNat = 3 * req.toNat := by
  have := req.isLt
  have three : (3 : Pos).toNat = 3 := rfl
  simp only [batchLength, BitVec.toNat_mul, BitVec.toNat_setWidth, three]
  omega

/-- The batch-end test as a statement on numbers, where `BPOS` is inside the batch (R29). -/
theorem bpos_succ_eq_batchLength {p : Pos} {req : Half} (h : p.toNat < 3 * req.toNat) :
    p + 1 = batchLength req ↔ p.toNat + 1 = 3 * req.toNat := by
  have := req.isLt
  have one : (1 : Pos).toNat = 1 := rfl
  rw [← BitVec.toNat_inj, batchLength_toNat, BitVec.toNat_add, one]
  omega

/-! ## The response word -/

@[simp] theorem rspOv_word (x : Response) (b : Bit) : rspOv (x.word b) = x.ov := by
  simp only [rspOv, Response.word, BitVec.getLsbD_append]
  simp
@[simp] theorem rspOb_word (x : Response) (b : Bit) : rspOb (x.word b) = x.ob := by
  simp only [rspOb, Response.word, BitVec.getLsbD_append]
  simp
@[simp] theorem rspDone_word (x : Response) (b : Bit) : rspDone (x.word b) = x.done := by
  simp only [rspDone, Response.word, BitVec.getLsbD_append]
  simp
@[simp] theorem rspBusy_word (x : Response) (b : Bit) : rspBusy (x.word b) = b := by
  simp only [rspBusy, Response.word, BitVec.getLsbD_append]
  simp

@[simp] theorem rspSt_word (x : Response) (b : Bit) : rspSt (x.word b) = x.st.code := by
  apply BitVec.eq_of_getLsbD_eq
  intro i hi
  rw [rspSt, BitVec.getLsbD_extractLsb']
  simp only [Response.word, BitVec.getLsbD_append]
  interval_cases i <;> simp

@[simp] theorem rspRsv_word (x : Response) (b : Bit) : rspRsv (x.word b) = 0 := by
  apply BitVec.eq_of_getLsbD_eq
  intro i hi
  rw [rspRsv, BitVec.getLsbD_extractLsb']
  simp only [Response.word, BitVec.getLsbD_append]
  interval_cases i <;> simp

@[simp] theorem rspData_word (x : Response) (b : Bit) : rspData (x.word b) = x.data := by
  apply BitVec.eq_of_getLsbD_eq
  intro i hi
  rw [rspData, BitVec.getLsbD_extractLsb']
  simp only [Response.word, BitVec.getLsbD_append]
  interval_cases i <;> simp

@[simp] theorem emit_ov (e : Option Bit) : (Response.emit e).ov = e.isSome := rfl
@[simp] theorem emit_ob (e : Option Bit) : (Response.emit e).ob = e.getD false := rfl
@[simp] theorem emit_done (e : Option Bit) : (Response.emit e).done = false := rfl
@[simp] theorem emit_st (e : Option Bit) : (Response.emit e).st = .ok := rfl
@[simp] theorem emit_data (e : Option Bit) : (Response.emit e).data = 0 := rfl

/-- The word of `respond()`. -/
theorem word_ok (b : Bit) : ({} : Response).word b = busyField b := by cases b <;> rfl

/-- The word of an error: the code and BUSY (R221). -/
theorem word_error (e : Status) (b : Bit) :
    ({ st := e } : Response).word b = e.code.setWidth 32 <<< 4 ||| busyField b := by
  cases e <;> cases b <;> rfl

/-- The word of `respond(DONE = 1)`. -/
theorem word_done (b : Bit) : ({ done := true } : Response).word b = 0x4 ||| busyField b := by
  cases b <;> rfl

/-- The word of `respond(OV = 1, OB = o)`. -/
theorem word_bit (o b : Bit) :
    ({ ov := true, ob := o } : Response).word b = busyField b ||| outputField (some o) := by
  cases o <;> cases b <;> rfl

/-- The word of a response with at most an output bit. -/
theorem word_emit (o : Option Bit) (b : Bit) : (Response.emit o).word b = busyField b ||| outputField o := by
  rcases o with _ | o
  · cases b <;> rfl
  · cases o <;> cases b <;> rfl

/-- The same with a status code. -/
theorem word_emit_status (o : Option Bit) (b : Bit) (e : Status) :
    ({ Response.emit o with st := e } : Response).word b =
      e.code.setWidth 32 <<< 4 ||| (busyField b ||| outputField o) := by
  rcases o with _ | o
  · cases b <;> cases e <;> rfl
  · cases o <;> cases b <;> cases e <;> rfl

/-- The same with DONE. -/
theorem word_emit_done (o : Option Bit) (b : Bit) :
    ({ Response.emit o with done := true } : Response).word b =
      0x4 ||| (busyField b ||| outputField o) := by
  rcases o with _ | o
  · cases b <;> rfl
  · cases o <;> cases b <;> rfl

/-- The word of a successful `RDREG`. -/
theorem word_data (d : Half) (b : Bit) :
    ({ data := d } : Response).word b = d.setWidth 32 <<< 16 ||| busyField b := by
  apply BitVec.eq_of_getLsbD_eq
  intro i hi
  simp only [Response.word, BitVec.getLsbD_append]
  cases b <;> interval_cases i <;> simp [busyField, Status.code]

/-- Two completed commands agree when their registers and their responses do. -/
theorem next_after_congr {s : State} {r r' : Regs} {w w' : Word} (hr : r = r') (hw : w = w') :
    (.next (s.After r w) : Result) = .next (s.After r' w') := by rw [hr, hw]

@[simp] theorem outputBits_nil : outputBits [] = [] := rfl

theorem outputBits_append (xs ys : List Word) : outputBits (xs ++ ys) = outputBits xs ++ outputBits ys := by
  induction xs with
  | nil => rfl
  | cons w ws ih =>
    simp only [List.cons_append, outputBits]
    split <;> simp [ih]

/-! ## Sequences of commands -/

@[simp] theorem execAll_nil (s : State) : execAll [] s = .next s := rfl

theorem execAll_cons {i : Instr} {s t : State} (h : exec i s = .next t) (is : List Instr) :
    execAll (i :: is) s = execAll is t := by simp [execAll, h]

theorem execAll_append {is : List Instr} {s t : State} (h : execAll is s = .next t) (js : List Instr) :
    execAll (is ++ js) s = execAll js t := by
  induction is generalizing s with
  | nil => cases h; rfl
  | cons i is ih =>
    simp only [List.cons_append, execAll] at h ⊢
    split at h
    · exact ih h
    · cases h
    · cases h

end Sys2Proof.Machine
end

