-- ==== Sys2Proof/Laws/PerInstr.lean ====
section
/-! SUPPORT. One family of lemmas over all commands, one lemma per constructor. -/
namespace Sys2Proof.Laws

/-- The mask and match of a command's row in R72. -/
def maskMatch : Instr → Word × Word
  | .nop => (0xFFFFFFFF, 0x00000000)
  | .seed _ => (0x0000FFFF, 0x00000001)
  | .lstep => (0xFFFFFFFF, 0x00000002)
  | .raw _ => (0xFFFFFFEF, 0x00000003)
  | .ext _ => (0xFFFFFFEF, 0x00000004)
  | .eflush => (0xFFFFFFFF, 0x00000005)
  | .breq _ => (0x0000FFFF, 0x00000006)
  | .bstep _ => (0xFFFFFFEF, 0x00000007)
  | .babort => (0xFFFFFFFF, 0x00000008)
  | .rdreg _ => (0xFFFF00FF, 0x00000009)

/-- A shifted immediate has no bit below bit 16. -/
theorem immField_low (x : Half) (k : Word) :
    (immField x ||| (k &&& 0x0000FFFF)) &&& 0x0000FFFF = k &&& 0x0000FFFF := by
  ext i hi
  by_cases h : i < 16
  · simp [immField, h]
  · have low : ∀ j < 32, 16 ≤ j → (0x0000FFFF#32).getLsbD j = false := by decide
    have here : (0x0000FFFF#32)[i] = false := by
      rw [← BitVec.getLsbD_eq_getElem hi]
      exact low i hi (by omega)
    simp [here]

/-- A shifted selector stands in bits 15:8 alone. -/
theorem selField_rest (x : Sel) : (selField x ||| 0x9) &&& 0xFFFF00FF = 0x00000009 := by
  have h : ∀ y : BitVec 8, (selField y ||| 0x9) &&& 0xFFFF00FF = 0x00000009 := by decide
  exact h x

namespace OwnRow

/-- The command's word is selected by the command's own row of R72. -/
def Statement (i : Instr) : Prop := encode i &&& (maskMatch i).1 = (maskMatch i).2

theorem nop : Statement .nop := rfl
theorem seed (imm : Half) : Statement (.seed imm) := immField_low imm 0x1
theorem lstep : Statement .lstep := rfl
theorem raw (b : Bit) : Statement (.raw b) := by cases b <;> rfl
theorem ext (b : Bit) : Statement (.ext b) := by cases b <;> rfl
theorem eflush : Statement .eflush := rfl
theorem breq (imm : Half) : Statement (.breq imm) := immField_low imm 0x6
theorem bstep (b : Bit) : Statement (.bstep b) := by cases b <;> rfl
theorem babort : Statement .babort := rfl
theorem rdreg (sel : Sel) : Statement (.rdreg sel) := selField_rest sel

end OwnRow

end Sys2Proof.Laws
end

