-- ==== Sys2Proof/Laws/Step.lean ====
section
/-! SUPPORT. What a command and a step can answer, said once, and the equations of a run. -/
namespace Sys2Proof.Machine

/-- Every command completes: it answers a next state that differs in the registers and in one more response,
and in nothing else (R38). -/
theorem exec_after (i : Instr) (s : State) : ∃ r w, exec i s = .next (s.After r w) := by
  cases i <;>
    simp only [exec, execNop, execSeed, execLstep, execRaw, execExt, execEflush, execBreq, execBstep,
      execBabort, execRdreg, unlessBusy, whenSeeded, whenBusy, endBatch, complete_eq, raiseError_eq] <;>
    (repeat' split) <;> exact ⟨_, _, rfl⟩

/-- So does a command word that is no command. -/
theorem takeCommand_after (c : Word) (s : State) : ∃ r w, takeCommand c s = .next (s.After r w) := by
  unfold takeCommand
  split
  · exact exec_after _ _
  · exact ⟨_, _, rfl⟩

theorem takeCommand_ok {c : Word} {i : Instr} (h : decode c = .ok i) (s : State) :
    takeCommand c s = exec i s := by simp [takeCommand, h]

theorem takeCommand_illegal {c : Word} {e : Reject} (h : decode c = .error e) (s : State) :
    takeCommand c s = raiseError .illegal s := by simp [takeCommand, h, execIllegal]

/-- A step takes the oldest input. -/
theorem step_cmd {s : State} {c : Word} {rest : List HostInput} (h : s.pending = .cmd c :: rest) :
    step s = takeCommand c { s with pending := rest } := by simp [step, h, takeInput]

theorem step_rst {s : State} {rest : List HostInput} (h : s.pending = .rst :: rest) :
    step s = .next { s with regs := Regs.reset, pending := rest } := by
  simp [step, h, takeInput, takeReset]

/-- What a step can do: hold everything, take a command, or take a reset. -/
theorem step_cases (s : State) :
    (s.pending = [] ∧ step s = .next s) ∨
    (∃ c rest, s.pending = .cmd c :: rest ∧ step s = takeCommand c { s with pending := rest }) ∨
    (∃ rest, s.pending = .rst :: rest ∧
      step s = .next { s with regs := Regs.reset, pending := rest }) := by
  cases h : s.pending with
  | nil => exact .inl ⟨rfl, by simp [step, h]⟩
  | cons x rest =>
    cases x with
    | cmd c => exact .inr (.inl ⟨c, rest, rfl, step_cmd h⟩)
    | rst => exact .inr (.inr ⟨rest, rfl, step_rst h⟩)

/-- The run of the interface over one more step. -/
theorem run_succ {s t : State} (h : step s = .next t) (n : Nat) :
    Host.Core.run core (n + 1) s = Host.Core.run core n t := by
  have h' : core.step s = .next t := h
  simp only [Host.Core.run, h']

end Sys2Proof.Machine
end

