-- ==== Sys2Proof/Laws/Runs.lean ====
section
/-! SUPPORT. Sequences of commands: what a command answers depends on the registers and the parameter alone,
and how the reference functions split over a sequence. -/
namespace Sys2Proof.Machine

/-- A response says which it is: two states after one command agree only if registers and response do. -/
theorem after_inj {s : State} {r r' : Regs} {w w' : Word} (h : s.After r w = s.After r' w') :
    r = r' ∧ w = w' :=
  ⟨congrArg State.regs h, by simpa [State.After] using congrArg State.rsp h⟩

/-- A command's registers and its response are determined by the registers and the parameter: what is pending
and what has been returned do not matter (R38, R57). -/
theorem exec_local (i : Instr) (cfg : Config) (r : Regs) :
    ∃ r' w, ∀ s : State, s.cfg = cfg → s.regs = r → exec i s = .next (s.After r' w) := by
  obtain ⟨r', w, h⟩ := exec_after i { regs := r, cfg := cfg, pending := [], rsp := [] }
  refine ⟨r', w, fun s hc hr => ?_⟩
  cases i <;>
    simp only [exec, execNop, execSeed, execLstep, execRaw, execExt, execEflush, execBreq, execBstep,
      execBabort, execRdreg, unlessBusy, whenSeeded, whenBusy, endBatch, complete_eq, raiseError_eq,
      hc, hr] at h ⊢ <;>
    (repeat' split at h) <;>
    (obtain ⟨rfl, rfl⟩ := after_inj (Host.Outcome.next.inj h)) <;> simp_all

/-- The responses returned between a state and the same state with more responses. -/
@[simp] theorem newResponses_append (s t : State) (ws : List Word) (h : t.rsp = s.rsp ++ ws) :
    newResponses s t = ws := by simp [newResponses, h]

@[simp] theorem newResponses_after (s : State) (r : Regs) (w : Word) : newResponses s (s.After r w) = [w] := by
  simp [newResponses, State.After]

@[simp] theorem lastResponse_after (s : State) (r : Regs) (w : Word) :
    (s.After r w).rsp.getLastD 0 = w := by simp [State.After]

/-- The first step out of `n + 1`. -/
theorem lfsrState_succ (s : Half) (n : Nat) : lfsrState s (n + 1) = lfsrState (lfsrNext s).1 n := by
  induction n with
  | zero => rfl
  | succ n ih => rw [lfsrState, ih]; rfl

theorem lfsrState_add (s : Half) (m n : Nat) : lfsrState s (m + n) = lfsrState (lfsrState s m) n := by
  induction n with
  | zero => rfl
  | succ n ih => rw [← Nat.add_assoc, lfsrState, ih]; rfl

@[simp] theorem rawBits_length (s : Half) (cs : List Bit) : (rawBits s cs).length = cs.length := by
  induction cs generalizing s with
  | nil => rfl
  | cons c cs ih => simp [rawBits, ih]

theorem rawBits_append (s : Half) (xs ys : List Bit) :
    rawBits s (xs ++ ys) = rawBits s xs ++ rawBits (lfsrState s xs.length) ys := by
  induction xs generalizing s with
  | nil => rfl
  | cons x xs ih => simp [rawBits, ih, lfsrState_succ]

theorem extractPairs_length (xs : List Bit) : (extractPairs xs).length ≤ xs.length / 2 := by
  induction xs using extractPairs.induct with
  | case1 b rest ih => simp [extractPairs]; omega
  | case2 a b rest h ih => simp [extractPairs, h]; omega
  | case3 xs h => unfold extractPairs; split <;> simp_all

/-- What `BSTEP` delivers, in the registers' own terms. -/
theorem delivered_eq_nextOut (r : Regs) (c : Bit) : r.delivered c = r.nextOut c := by
  unfold Regs.delivered Regs.nextOut Regs.feedRaw Regs.nextRaw
  simp only [BitVec.lt_def, combine_bit]
  cases hv : r.pv <;> by_cases h : r.coll.toNat < r.req.toNat <;> simp [h]

/-- `coll'` of R162, in the registers' own terms. -/
theorem takeRaw_coll_eq (r : Regs) (c : Bit) : (r.takeRaw c).coll = r.nextColl c := by
  simp only [Regs.takeRaw, delivered_eq_nextOut, Regs.nextColl]
  cases (r.nextOut c).isSome <;> simp [Bit.toHalf]

end Sys2Proof.Machine
end

