-- ==== Sys2Proof/Laws/Procedures.lean ====
section
/-! SUPPORT. What the host's shared procedures can answer, said once. -/
namespace Sys2Proof.Machine

@[simp] theorem State.lastResponse_of_after (s : State) (r : Regs) (w : Word) :
    (s.After r w).lastResponse = w := lastResponse_after s r w

/-- The command of a constructed generator (R192). -/
theorem constructGenerator_command {seed : Int} {g : NewGenerator} (h : constructGenerator seed = some g) :
    g.command = .seed (subSeed seed.toNat) := by
  unfold constructGenerator at h
  split at h
  · cases h
  · cases h; rfl

/-- Constructing a generator on a block with no request active. -/
theorem startGenerator_idle {seed : Int} {g : NewGenerator} {s : State} (hg : constructGenerator seed = some g)
    (hs : s.regs.busy = false) :
    startGenerator seed s = some (g, s.After (s.regs.seedWith (subSeed seed.toNat)) 0) := by
  have hw : ({} : Response).word (s.regs.seedWith (subSeed seed.toNat)).busy = 0 := by
    rw [word_ok, show (s.regs.seedWith (subSeed seed.toNat)).busy = false from hs]; rfl
  simp only [startGenerator, hg, constructGenerator_command hg, exec, execSeed, unlessBusy_idle hs,
    complete_eq, hw, State.lastResponse_of_after]
  rfl

/-- While a request is active no generator is constructed (R253). -/
theorem startGenerator_busy {seed : Int} {s : State} (hs : s.regs.busy = true) :
    startGenerator seed s = none := by
  unfold startGenerator
  split
  · rfl
  · rename_i g hg
    simp only [constructGenerator_command hg, exec, execSeed, unlessBusy_busy hs, raiseError_eq,
      State.lastResponse_of_after, rspSt_word]
    rfl

/-- Cancelling always ends the request without a result (R195). -/
@[simp] theorem cancelBalancedBits_end (s : State) : (cancelBalancedBits s).1 = .cancelled := by
  obtain ⟨r, w, h⟩ := exec_after .babort s
  simp [cancelBalancedBits, h]

/-- The state that cancelling an active request leaves (R163). -/
theorem cancelBalancedBits_busy {s : State} (hs : s.regs.busy = true) :
    (cancelBalancedBits s).2 = s.After s.regs.cancelRequest 0 := by
  simp only [cancelBalancedBits, exec, execBabort, hs, if_true, complete_eq, word_ok]
  rfl

end Sys2Proof.Machine
end

