-- ==== Sys2Proof/Tests/Slice0.lean ====
section
/-! SUPPORT. The model's own tests: ill-formed words refused, words written out from spec/30_encoding.md,
single steps with the results that spec/95_test_vectors.md states, and for every statement that has hypotheses
a concrete state and operands that meet them. -/
namespace Sys2Proof.Machine.Tests

/-! ## Helpers -/

/-- The reset machine with these registers and this bound on batches. -/
def machine (r : Regs) (bound : Half := 0) : State := { State.reset with regs := r, cfg := ⟨bound⟩ }

/-- After `SEED 0xACE1`. -/
def seeded : Regs := { Regs.reset with lfsr := 0xACE1, seeded := true }

/-- A request for one bit is active: the first of a batch's three raw bits is still to come. -/
def active : Regs := { seeded with busy := true, req := 1 }

/-- The registers after a command, and the one response it returned. -/
def after (i : Instr) (s : State) : Option (Regs × List Word) :=
  match exec i s with
  | .next t => some (t.regs, newResponses s t)
  | _ => none

/-- The same for a command word. -/
def afterWord (w : Word) (s : State) : Option (Regs × List Word) :=
  match takeCommand w s with
  | .next t => some (t.regs, newResponses s t)
  | _ => none

/-! ## Well-formedness: one ill-formed term for each check of R74 -/

theorem test_illformed_opcode :
    (CmdFields.wellFormed { op := 0xA, b := false, rsv := 0, sel := 0, imm := 0 }) = false := by decide
theorem test_illformed_rsv :
    (CmdFields.wellFormed { op := 0x1, b := false, rsv := 1, sel := 0, imm := 1 }) = false := by decide
theorem test_illformed_b :
    (CmdFields.wellFormed { op := 0x1, b := true, rsv := 0, sel := 0, imm := 1 }) = false := by decide
theorem test_illformed_sel :
    (CmdFields.wellFormed { op := 0x3, b := true, rsv := 0, sel := 1, imm := 0 }) = false := by decide
theorem test_illformed_imm :
    (CmdFields.wellFormed { op := 0x9, b := false, rsv := 0, sel := 1, imm := 1 }) = false := by decide
theorem test_wellformed_all_fields_used :
    (CmdFields.wellFormed { op := 0x7, b := true, rsv := 0, sel := 0, imm := 0 }) = true := by decide

/-! ## Decoding: words written out bit by bit, IMM SEL RSV B OP (R70, R72) -/

theorem test_decode_nop : decode 0b0000000000000000_00000000_000_0_0000 = .ok .nop := by decide
theorem test_decode_seed :
    decode 0b1010110011100001_00000000_000_0_0001 = .ok (.seed 0xACE1) := by decide
theorem test_decode_lstep : decode 0b0000000000000000_00000000_000_0_0010 = .ok .lstep := by decide
theorem test_decode_raw : decode 0b0000000000000000_00000000_000_1_0011 = .ok (.raw true) := by decide
theorem test_decode_ext : decode 0b0000000000000000_00000000_000_1_0100 = .ok (.ext true) := by decide
theorem test_decode_eflush : decode 0b0000000000000000_00000000_000_0_0101 = .ok .eflush := by decide
theorem test_decode_breq :
    decode 0b1000000000000010_00000000_000_0_0110 = .ok (.breq 0x8002) := by decide
theorem test_decode_bstep : decode 0b0000000000000000_00000000_000_0_0111 = .ok (.bstep false) := by decide
theorem test_decode_babort : decode 0b0000000000000000_00000000_000_0_1000 = .ok .babort := by decide
theorem test_decode_rdreg :
    decode 0b0000000000000000_10001010_000_0_1001 = .ok (.rdreg 0x8A) := by decide

/-- spec/95_test_vectors.md section 2.6. -/
theorem test_decode_refuses :
    [0x00000010, 0x00000020, 0x00000100, 0x00010000, 0x00010011, 0x00010021, 0x00000103, 0x00010003,
     0x00000012, 0x00010002, 0x00000015, 0x00000018, 0x00010009, 0x00000019].map decode =
      List.replicate 14 (.error .unusedFieldSet) := by decide
theorem test_decode_reserved :
    [0x0000000A, 0x0000000F, 0xFFFFFFFF].map decode = List.replicate 3 (.error .reservedOpcode) := by decide
theorem test_partial_word : decodeBytes [0x01, 0x00, 0xE1] = .error .partialWord := by decide

/-- R52: byte 0 is bits 7:0. -/
theorem test_bytes : decodeBytes [0x01, 0x00, 0xE1, 0xAC] = .ok (.seed 0xACE1) := by decide
/-- The table gives a row 32 bits; a shorter width has zeros above. -/
theorem test_table_word :
    decodeTableWord 32 0xACE10001 = some (.seed 0xACE1) ∧ decodeTableWord 16 0xACE10001 = some (.seed 0) ∧
      decodeTableWord 32 0x0000000A = none := by decide
theorem test_withFetchWord :
    (match step (State.reset.withFetchWord 32 0xACE10001) with
      | .next t => some (t.regs.lfsr, t.pending, t.rsp)
      | _ => none) = some (0xACE1, [], [0]) := by decide

/-! ## Single steps (spec/95_test_vectors.md sections 2.1 to 2.6) -/

theorem test_nop_busy : after .nop (machine active) = some (active, [0x08]) := by decide
/-- "ERRS 0x08 (kept)". -/
theorem test_seed_keeps_errs :
    after (.seed 0xACE1) (machine { Regs.reset with rawcnt := 5, balcnt := 2, errs := 0x08 }) =
      some ({ seeded with errs := 0x08 }, [0]) := by decide
theorem test_seed_zero :
    (after (.seed 0) State.reset).map (fun p => p.1.lfsr) = some 0x0001 := by decide
theorem test_lstep : after .lstep (machine seeded) = some ({ seeded with lfsr := 0xD670 }, [0x03]) := by decide
theorem test_lstep_unseeded :
    after .lstep State.reset = some ({ Regs.reset with errs := 0x02 }, [0x20]) := by decide
theorem test_raw_one :
    after (.raw true) (machine seeded) = some ({ seeded with lfsr := 0xD670, rawcnt := 1 }, [0x01]) := by decide
theorem test_raw_count_wraps :
    (after (.raw false) (machine { seeded with rawcnt := 0xFFFFFFFF })).map (fun p => p.1.rawcnt) = some 0 := by
  decide
/-- The pair 10 gives 1, and the pair 01 gives 0. -/
theorem test_ext_emits :
    after (.ext false) (machine { Regs.reset with pv := true, pb := true }) = some (Regs.reset, [0x03]) ∧
    after (.ext true) (machine { Regs.reset with pv := true }) = some (Regs.reset, [0x01]) := by decide
theorem test_ext_equal_pairs :
    after (.ext true) (machine { Regs.reset with pv := true, pb := true }) = some (Regs.reset, [0x00]) ∧
    after (.ext false) (machine { Regs.reset with pv := true }) = some (Regs.reset, [0x00]) := by decide
theorem test_eflush :
    after .eflush (machine { Regs.reset with pv := true, pb := true }) = some (Regs.reset, [0x00]) := by decide
/-- Vector S1. -/
theorem test_breq_zero : after (.breq 0) (machine seeded) = some (seeded, [0x04]) := by decide
theorem test_breq_one :
    after (.breq 1) (machine { seeded with pv := true, pb := true, coll := 7, req := 9, batches := 3 }) =
      some (active, [0x08]) := by decide
/-- Vector S3, its last `BSTEP`: OV and DONE together. -/
theorem test_bstep_last_pair :
    after (.bstep false)
      (machine { seeded with lfsr := 0xDD67, busy := true, req := 2, coll := 1, bpos := 5, pv := true,
                             rawcnt := 5 }) =
      some ({ seeded with lfsr := 0xEEB3, req := 2, coll := 2, batches := 1, rawcnt := 6, balcnt := 2 },
        [0x05]) := by decide
/-- Vector S7, its last `BSTEP`: the bound acts. -/
theorem test_bstep_exhausted :
    after (.bstep false) (machine { active with lfsr := 0, bpos := 2, rawcnt := 2 } 1) =
      some ({ seeded with lfsr := 0, req := 1, batches := 1, rawcnt := 3, errs := 0x10 }, [0x50]) := by decide
/-- Vector S9, from the third `BSTEP` on: a cancelled request. -/
theorem test_babort :
    after .babort
      (machine { seeded with lfsr := 0x759C, busy := true, req := 2, coll := 1, bpos := 3, pv := true }) =
      some ({ seeded with lfsr := 0x759C, req := 2, coll := 1 }, [0x00]) := by decide
/-- Vector S10: STATUS while busy. -/
theorem test_rdreg_status :
    (after (.rdreg 1) (machine { active with pv := true, pb := true, errs := 0x04 })).map (fun p => p.2) =
      some [0x040F0008] := by decide
theorem test_rdreg_reserved :
    after (.rdreg 11) State.reset = some ({ Regs.reset with errs := 0x01 }, [0x10]) := by decide
/-- ILLEGAL comes before NOSEED (R223). -/
theorem test_illegal_before_noseed :
    afterWord 0x00000023 State.reset = some ({ Regs.reset with errs := 0x01 }, [0x10]) := by decide

/-- Rows of section 2.1: taps, parity, and the fixed point. -/
theorem test_lfsr_rows :
    [0x0000, 0x0001, 0x8000, 0x2000, 0x1000, 0x0400, 0xB400, 0xA400, 0xFFFF, 0x0401, 0xACE1].map lfsrNext =
      [(0x0000, false), (0x0000, true), (0xC000, false), (0x9000, false), (0x8800, false), (0x8200, false),
       (0x5A00, false), (0xD200, false), (0x7FFF, true), (0x8200, true), (0xD670, true)] := by decide

/-- Section 1.1: the document's BiasExtractor example. -/
theorem test_extractor_example :
    extractPairs ([1,1,0,1,1,1,0,0,1,1,1,0,1,0,1,1,1,1,0,1].map (· == 1)) =
      [false, true, true, false] := by decide

/-- Section 1.5: sub-seeds of 1, 3, 7, 27 and 12345. -/
theorem test_sub_seeds :
    [1, 3, 7, 27, 12345].map subSeed = [0x0001, 0x0085, 0x0895, 0x2AA5, 0x0929] := by decide

/-- Vector S9: three chaotic bits, then `BABORT`. The one bit delivered is discarded (R195). -/
theorem test_cancelled_request :
    (generateOrCancel 2 [false, false, false] (machine seeded)).1 = .cancelled ∧
    (generateOrCancel 2 [false, false, false] (machine seeded)).2.1.regs =
      { seeded with lfsr := 0x759C, req := 2, coll := 1, rawcnt := 3 } := by decide
/-- Vector S7, from LFSR 0x0001: the bounded-retry failure. -/
theorem test_exhausted_request :
    (generateOrCancel 1 [true, false, false] (machine { seeded with lfsr := 0x0001 } 1)).1 = .exhausted := by
  decide
/-- Seed 27 again after it (section 1.5): a fresh generator, the sticky error kept (R104). -/
theorem test_restored_generator :
    (restoreGenerator 27 .exhausted (machine { seeded with lfsr := 0, req := 1, batches := 1, rawcnt := 3,
                                                            errs := 0x10 })).map (fun u => u.regs) =
      some { seeded with lfsr := 0x2AA5, errs := 0x10 } := by decide

/-- R77: text, numbers in both bases, register names, comments, refused operands. -/
theorem test_assembler :
    assembleLine "SEED 0xACE1 ; load".toList = some [0xACE10001] ∧
    assembleLine "RDREG RAWCNT_HI".toList = some [0x00000309] ∧
    assembleLine "BALANCED 2, 1 0".toList = some [0x00020006, 0x17, 0x07] ∧
    assembleLine "SEED 65536".toList = none ∧ assembleLine "RAW 2".toList = none ∧
    assembleLine "; only a comment".toList = some [] := by decide

/-! ## The hypotheses of the statements can be met

One theorem for each statement with hypotheses, clause by clause, at the ends of the ranges. -/

theorem test_meets_DecodedWordIsTheEncoding : decode 0xFFFF0001 = .ok (.seed 0xFFFF) := by decide
theorem test_meets_MaskAndMatchSelectTheCommand :
    decode 0xFFFF0006 = .ok (.breq 0xFFFF) ∧ (∃ e, decode 0x0000FF08 = .error e) := ⟨by decide, _, rfl⟩
theorem test_meets_NonzeroUnusedFieldReportsIllegal :
    (fieldsOf 0x0000FF09).wellFormed = true ∧ (fieldsOf 0x0000FF08).wellFormed = false := by decide
theorem test_meets_WordsMoveLittleEndian :
    (3 < 4 ∧ 7 < 8) ∧ ([0x09, 0x01, 0x00] : List Byte).length ≠ 4 ∧
      ([0x09, 0x01, 0x00, 0x00, 0x00] : List Byte).length ≠ 4 := by decide
theorem test_meets_AssemblerChecksOperandRanges :
    (AsmStmt.breq 65535).assemble = some [0xFFFF0006] ∧ (AsmStmt.breq 65536).assemble = none ∧
    (AsmStmt.rdreg 255).assemble = some [0x0000FF09] ∧ (AsmStmt.rdreg 256).assemble = none ∧
    (AsmStmt.ext 1).assemble = some [0x00000014] ∧ (AsmStmt.ext 2).assemble = none ∧
    (AsmStmt.word 0xFFFFFFFF).assemble = some [0xFFFFFFFF] := by decide

theorem test_meets_StepRunsTheDecodedCommand :
    decode 0x00000002 = .ok .lstep ∧
      ({ machine seeded with pending := [.cmd 0x00000002, .rst] } : State).pending =
        .cmd 0x00000002 :: [.rst] := by decide
theorem test_meets_OneResponsePerCommandInOrder :
    ({ machine seeded with pending := [.cmd 0x00000002, .cmd 0x00000010, .rst] } : State).pending =
      [0x00000002, 0x00000010].map .cmd ++ [.rst] := by decide
theorem test_meets_StepWithoutInputHoldsState : (machine active).pending = [] := by decide
theorem test_meets_ResetInputSetsEveryRegister :
    ({ machine active with pending := [.rst, .cmd 0x00000000] } : State).pending =
      .rst :: [.cmd 0x00000000] := by decide
theorem test_meets_RunOverWordsExecutesTheCommands :
    ({ machine seeded with pending := [.cmd 0xACE10001, .cmd 0x00000013] } : State).pending =
      [Instr.seed 0xACE1, .raw true].map (fun i => .cmd (encode i)) ++ [] := by decide

theorem test_meets_SmallSeedRunsIntoZero :
    (0 < 10 ∧ 2 ^ 0 ≤ (0x0001 : Half).toNat ∧ (0x0001 : Half).toNat < 2 ^ (0 + 1)) ∧
    (9 < 10 ∧ 2 ^ 9 ≤ (0x03FF : Half).toNat ∧ (0x03FF : Half).toNat < 2 ^ (9 + 1)) := by decide
theorem test_meets_LargeSeedEntersTheSharedCycle :
    0x0400 ≤ (0x0400 : Half).toNat ∧ 0x0400 ≤ (0xFFFF : Half).toNat := by decide

/-- Idle and seeded, idle and not seeded, and busy: the cases of `SEED`, `LSTEP`, `RAW` and `BREQ`. -/
theorem test_meets_SeedStartsAFreshGenerator :
    (machine seeded).regs.busy = false ∧ (machine active).regs.busy = true := by decide
theorem test_meets_LstepReturnsTheLfsrBit :
    ((machine seeded).regs.busy = false ∧ (machine seeded).regs.seeded = true) ∧
    (machine active).regs.busy = true ∧
    (State.reset.regs.busy = false ∧ State.reset.regs.seeded = false) := by decide
theorem test_meets_RawReturnsTheCombinedBit :
    ((machine { seeded with rawcnt := 0xFFFFFFFF }).regs.busy = false ∧
      (machine { seeded with rawcnt := 0xFFFFFFFF }).regs.seeded = true) ∧
    (machine active).regs.busy = true ∧
    (State.reset.regs.busy = false ∧ State.reset.regs.seeded = false) := by decide
theorem test_meets_ExtPairsBits :
    (State.reset.regs.busy = false ∧ State.reset.regs.pv = false) ∧
    ((machine { seeded with pv := true, pb := true }).regs.busy = false ∧
      (machine { seeded with pv := true, pb := true }).regs.pv = true) ∧
    (machine active).regs.busy = true := by decide
theorem test_meets_EflushDiscardsThePendingBit :
    (machine { seeded with pv := true }).regs.busy = false ∧ (machine active).regs.busy = true := by decide
theorem test_meets_BreqStartsARequest :
    ((machine seeded).regs.busy = false ∧ (machine seeded).regs.seeded = true ∧ (0xFFFF : Half) ≠ 0) ∧
    (machine active).regs.busy = true ∧
    (State.reset.regs.busy = false ∧ State.reset.regs.seeded = false) := by decide

/-- Inside a batch: the second to last raw bit of the longest batch. -/
theorem test_meets_BstepConsumesARawBit_inside :
    let s := machine { active with req := 0xFFFF, bpos := 196603 }
    s.regs.busy = true ∧ s.regs.bpos.toNat + 1 < 3 * s.regs.req.toNat := by decide
/-- The last raw bit of a batch, with all bits collected. -/
theorem test_meets_BstepConsumesARawBit_done :
    let s := machine { active with req := 0xFFFF, coll := 0xFFFF, bpos := 196604 }
    s.regs.busy = true ∧ s.regs.bpos.toNat + 1 = 3 * s.regs.req.toNat ∧
      s.regs.nextColl true = s.regs.req := by decide
/-- The last raw bit of the last batch that the bound allows. -/
theorem test_meets_BstepConsumesARawBit_exhausted :
    let s := machine { active with bpos := 2, batches := 0xFFFE } 0xFFFF
    s.regs.busy = true ∧ s.regs.bpos.toNat + 1 = 3 * s.regs.req.toNat ∧ s.regs.nextColl true ≠ s.regs.req ∧
      s.cfg.maxBatches ≠ 0 ∧ s.regs.batches + 1 = s.cfg.maxBatches := by decide
/-- The last raw bit of a batch before that one, and one with no bound. -/
theorem test_meets_BstepConsumesARawBit_another :
    let s := machine { active with bpos := 2, batches := 0xFFFD } 0xFFFF
    let u := machine { active with bpos := 2, batches := 0xFFFF }
    (s.regs.busy = true ∧ s.regs.bpos.toNat + 1 = 3 * s.regs.req.toNat ∧
      s.regs.nextColl true ≠ s.regs.req ∧ s.regs.batches + 1 ≠ s.cfg.maxBatches) ∧
    (u.regs.busy = true ∧ u.regs.bpos.toNat + 1 = 3 * u.regs.req.toNat ∧
      u.regs.nextColl true ≠ u.regs.req ∧ u.cfg.maxBatches = 0) := by decide
theorem test_meets_BstepConsumesARawBit_idle : (machine seeded).regs.busy = false := by decide
theorem test_meets_BabortCancelsTheRequest :
    (machine active).regs.busy = true ∧ (machine seeded).regs.busy = false := by decide
theorem test_meets_RdregReadsTheSelectorMap :
    ((0 : Sel).toNat, (machine seeded).regs.lfsr) ∈ [(0, (machine seeded).regs.lfsr)] ∧
    ((10 : Sel).toNat, (machine seeded).regs.batches) ∈ [(10, (machine seeded).regs.batches)] ∧
    10 < (11 : Sel).toNat ∧ 10 < (255 : Sel).toNat := by decide
theorem test_meets_StatusLayout : (4 ≤ 7 ∧ 7 ≤ 7) ∧ 4 < 5 ∧ 13 ≤ 15 := by decide

theorem test_meets_ErrorWritesOnlyItsStickyBit :
    (∃ t w, takeCommand 0x0000000A State.reset = .next t ∧ t.rsp = State.reset.rsp ++ [w] ∧
      Status.illegal ∈ [Status.illegal, .noseed, .busy, .idle] ∧ rspSt w = Status.illegal.code) ∧
    (∃ t w, takeCommand 0x00000017 State.reset = .next t ∧ t.rsp = State.reset.rsp ++ [w] ∧
      Status.idle ∈ [Status.illegal, .noseed, .busy, .idle] ∧ rspSt w = Status.idle.code ∧
      decode 0x00000017 = .ok (.bstep true)) :=
  ⟨⟨_, _, rfl, rfl, by decide, by decide⟩, ⟨_, _, rfl, rfl, by decide, by decide, by decide⟩⟩
/-- The reset registers, and a request in the middle of a batch, meet R34. -/
theorem test_meets_invariants : Regs.reset.Inv ∧ ({ active with bpos := 1, pv := true, pb := true } : Regs).Inv :=
  ⟨⟨by decide, by decide, by decide, by decide, by decide, by decide, by decide⟩,
   ⟨by decide, by decide, by decide, by decide, by decide, by decide, by decide⟩⟩
theorem test_meets_StatusOfEveryCommand : (machine active).regs.Inv :=
  ⟨by decide, by decide, by decide, by decide, by decide, by decide, by decide⟩
theorem test_meets_ErrsBitsAreSticky :
    ({ machine { active with errs := 0b11111 } with pending := [.cmd 0x00000002] } : State).pending =
      .cmd 0x00000002 :: [] ∧
    ({ machine { active with errs := 0b11111 } with pending := [.rst] } : State).pending = .rst :: [] := by
  decide

theorem test_meets_ControlCommandsFrame :
    Instr.rdreg 11 ∈ [.nop, .rdreg 11] ∧ ∃ t, exec (.rdreg 11) (machine active) = .next t := ⟨by decide, _, rfl⟩
theorem test_meets_LfsrCommandsFrame :
    Instr.raw true ∈ [.lstep, .raw true] ∧ ∃ t, exec (.raw true) (machine seeded) = .next t :=
  ⟨by decide, _, rfl⟩
theorem test_meets_ExtractorCommandsFrame :
    Instr.ext true ∈ [.ext true, .eflush] ∧ ∃ t, exec (.ext true) (machine seeded) = .next t :=
  ⟨by decide, _, rfl⟩
theorem test_meets_SequencerCommandsFrame :
    (∃ t, exec (.seed 5) (machine seeded) = .next t) ∧ (∃ t, exec (.breq 5) (machine seeded) = .next t) ∧
    (∃ t, exec (.bstep true) (machine active) = .next t) ∧ (∃ t, exec .babort (machine active) = .next t) ∧
    Instr.breq 5 ∈ [Instr.seed 5, .breq 5, .bstep true, .babort] :=
  ⟨⟨_, rfl⟩, ⟨_, rfl⟩, ⟨_, rfl⟩, ⟨_, rfl⟩, by decide⟩

theorem test_meets_StepKeepsTheInvariants :
    (machine active).regs.Inv ∧
      ∃ t, step { machine active with pending := [.cmd 0x00000007] } = .next t :=
  ⟨test_meets_StatusOfEveryCommand, _, rfl⟩
theorem test_meets_StepKeepsBatchesBelowTheBound :
    ({ machine active 1 with pending := [.cmd 0x00000007] } : State).BelowRetryBound ∧
      ∃ t, step { machine active 1 with pending := [.cmd 0x00000007] } = .next t :=
  ⟨fun _ _ => by decide, _, rfl⟩
theorem test_meets_SeededIsSetBySeedOnly :
    ({ State.reset with pending := [.cmd 0x00000001] } : State).pending = .cmd 0x00000001 :: [] ∧
    State.reset.regs.Inv ∧ State.reset.regs.seeded = false ∧ Instr.breq 0 ∈ [.lstep, .raw true, .breq 0] :=
  ⟨by decide, test_meets_invariants.1, by decide, by decide⟩
/-- The first `BSTEP` of this pair is inside a batch, and the second ends it with DONE. -/
theorem test_meets_RequestsBeginAndEndByTheirCommands :
    (∃ t w, exec (.breq 1) (machine seeded) = .next t ∧ t.rsp = (machine seeded).rsp ++ [w] ∧
      (machine seeded).regs.busy = false ∧ t.regs.busy = true) ∧
    (∃ t w, exec (.bstep false) (machine { active with bpos := 2, coll := 1 }) = .next t ∧
      t.rsp = (machine { active with bpos := 2, coll := 1 }).rsp ++ [w] ∧
      (machine { active with bpos := 2, coll := 1 }).regs.busy = true ∧ t.regs.busy = false) :=
  ⟨⟨_, _, rfl, rfl, by decide, rfl⟩, ⟨_, _, rfl, rfl, by decide, rfl⟩⟩
theorem test_meets_RawcntCountsConsumedChaoticBits :
    (∀ imm, Instr.raw true ≠ .seed imm) ∧ (∀ imm, Instr.lstep ≠ .seed imm) ∧
    (∃ t w, exec (.raw true) (machine seeded) = .next t ∧ t.rsp = (machine seeded).rsp ++ [w] ∧
      chaosConsumed (.raw true) w = 1) ∧
    (∃ t w, exec .eflush (machine seeded) = .next t ∧ t.rsp = (machine seeded).rsp ++ [w] ∧
      chaosConsumed .eflush w = 0 ∧ Instr.eflush ≠ .lstep) ∧
    (∃ t w, exec (.seed 5) (machine seeded) = .next t ∧ t.rsp = (machine seeded).rsp ++ [w]) :=
  ⟨by simp, by simp, ⟨_, _, rfl, rfl, by decide⟩, ⟨_, _, rfl, rfl, by decide, by decide⟩, ⟨_, _, rfl, rfl⟩⟩
theorem test_meets_BalcntCountsCompletedRequests :
    (∀ imm, Instr.bstep false ≠ .seed imm) ∧
    ∃ t w, exec (.bstep false) (machine { active with bpos := 2, coll := 1 }) = .next t ∧
      t.rsp = (machine { active with bpos := 2, coll := 1 }).rsp ++ [w] ∧ rspDone w = true ∧
      Instr.bstep false ≠ .breq 0 :=
  ⟨by simp, _, _, rfl, rfl, by decide, by decide⟩
theorem test_meets_CommandsBeforeTheFirstSeed :
    State.reset.regs.Inv ∧ State.reset.regs.seeded = false ∧ (10 : Sel).toNat ≤ 10 :=
  ⟨test_meets_invariants.1, by decide, by decide⟩
theorem test_meets_RepeatingAnIdempotentCommandChangesNothing :
    Instr.breq 0 ∈ [.nop, .rdreg 11, .seed 0, .eflush, .babort, .breq 0] := by decide

theorem test_meets_ExtractorStreamIsThePairFunction :
    State.reset.regs.busy = false ∧ State.reset.regs.pv = false := by decide
theorem test_meets_Ready : (machine seeded).Ready ∧ (machine seeded 1).Ready := ⟨⟨rfl, rfl⟩, ⟨rfl, rfl⟩⟩
theorem test_meets_RawStreamIsTheXorOfTheStreams : (machine seeded).Ready := test_meets_Ready.1
/-- Vector S2 under the bound 1: one batch is enough. -/
theorem test_meets_SequencerProducesTheDocumentsBits :
    (machine seeded 1).Ready ∧ (1 : Half) ≠ 0 ∧
    kOver * (1 : Half).toNat * 1 ≤ [false, false, false].length ∧
    generateBalanced (1 : Half).toNat 1 0 [] (machine seeded 1).regs.lfsr [false, false, false] =
      some ⟨[true], 1, 0x759C⟩ ∧
    (1 ≤ (machine seeded 1).cfg.maxBatches.toNat) := ⟨test_meets_Ready.2, by decide⟩
theorem test_meets_HostLoopProducesTheDocumentsBits :
    (machine seeded).Ready ∧ 1 ≤ 1 ∧ kOver * 1 * 1 ≤ [false, false, false].length :=
  ⟨test_meets_Ready.1, by decide⟩
theorem test_meets_DeliveredBitsAreCountedByColl : (machine seeded).Ready ∧ (0xFFFF : Half) ≠ 0 :=
  ⟨test_meets_Ready.1, by decide⟩
theorem test_meets_CompletedRequestReturnsExactlyCountBits :
    ∃ t, generateBalancedBits 1 [false, false, false, true] (machine seeded) = (.result [true], t, [true]) :=
  ⟨_, rfl⟩
theorem test_meets_BoundedRequestEnds :
    (machine seeded 1).Ready ∧ (1 : Half) ≠ 0 ∧ (machine seeded 1).cfg.maxBatches ≠ 0 ∧
    [true, false, false].length = 3 * (1 : Half).toNat * (machine seeded 1).cfg.maxBatches.toNat :=
  ⟨test_meets_Ready.2, by decide⟩
theorem test_meets_ConstantStreamNeverEndsARequest :
    let s := machine { seeded with lfsr := 0 }
    s.Ready ∧ (1 : Half) ≠ 0 ∧ s.cfg.maxBatches = 0 ∧ s.regs.lfsr = 0 := ⟨⟨rfl, rfl⟩, by decide⟩
theorem test_meets_SeedErasesTheHistory :
    (machine seeded).regs.busy = false ∧ State.reset.regs.busy = false ∧
    (machine seeded).cfg = State.reset.cfg ∧ Instr.rdreg 1 ∉ [Instr.rdreg 0, .raw true] := by decide

theorem test_meets_PackedBytesUnpackToTheBits :
    [true, false, true, false, false, false, false, true].length % 8 = 0 := by decide
/-- One byte under the keystream of seed 27. The ciphertext is the model's own answer: it shows that the
hypothesis can be met and tests nothing. -/
theorem test_meets_DecryptUndoesEncrypt :
    State.reset.cfg = (machine seeded).cfg ∧ (machine seeded).regs.busy = false ∧
    encryptNibbles 27 [0xA5] (List.replicate 12 true ++ List.replicate 60 false) State.reset =
      some [0x9, 0x9] := by decide
/-- Both ends: a request that the host cancels, and one that the bound exhausts. -/
theorem test_meets_FailedRequestIsDiscardedAndReseeded :
    (∃ g, constructGenerator 27 = some g) ∧
    (∃ t, generateOrCancel 2 [false, false, false] (machine seeded) = (.cancelled, t, [])) ∧
    (∃ t, generateOrCancel 1 [true, false, false, true] (machine { seeded with lfsr := 0x0001 } 1) =
      (.exhausted, t, [true])) ∧
    RequestEnd.cancelled.needsSeed = true ∧ RequestEnd.exhausted.needsSeed = true :=
  ⟨⟨_, rfl⟩, ⟨_, rfl⟩, ⟨_, rfl⟩, rfl, rfl⟩

end Sys2Proof.Machine.Tests
end

section
/-! SUPPORT and PROOFS of the statements on the state (spec/10_state.md): the ways a command can go, the rules on
one register that follow, and the obligations O29, O34, O43, O45 and O46. -/
namespace Sys2Proof.Machine

/-! ## What a command answers, said once for all commands -/

/-- The commands that are turned away with BUSY while a request is active (R220, D18). -/
def needsIdle : Instr → Bool
  | .seed _ | .lstep | .raw _ | .ext _ | .eflush | .breq _ => true
  | .nop | .bstep _ | .babort | .rdreg _ => false

/-- The commands that are turned away with NOSEED before the first `SEED` (R220, D19). -/
def needsSeed : Instr → Bool
  | .lstep | .raw _ | .breq _ => true
  | .nop | .seed _ | .ext _ | .eflush | .bstep _ | .babort | .rdreg _ => false

/-- Command `i`, executed in state `s`, completes with the registers and the response given: one constructor for
each way a command can go, with its guard (the command rules R104 to R191, and the errors of R220).
`Completes.exec_eq` says that a way is what `exec` does, and `exists_completes` that there is always one. -/
inductive Completes (s : State) : Instr → Regs → Response → Prop
  | nop : Completes s .nop s.regs {}
  | seed (imm : Half) (idle : s.regs.busy = false) : Completes s (.seed imm) (s.regs.seedWith imm) {}
  | lstep (idle : s.regs.busy = false) (seeded : s.regs.seeded = true) :
      Completes s .lstep { s.regs with lfsr := (lfsrNext s.regs.lfsr).1 }
        { ov := true, ob := (lfsrNext s.regs.lfsr).2 }
  | raw (c : Bit) (idle : s.regs.busy = false) (seeded : s.regs.seeded = true) :
      Completes s (.raw c) s.regs.countRaw { ov := true, ob := (combine s.regs.lfsr c).2 }
  | ext (b : Bit) (idle : s.regs.busy = false) :
      Completes s (.ext b)
        { s.regs with
          pv := (vnFeed s.regs.pv s.regs.pb b).1, pb := (vnFeed s.regs.pv s.regs.pb b).2.1 }
        (Response.emit (vnFeed s.regs.pv s.regs.pb b).2.2)
  | eflush (idle : s.regs.busy = false) : Completes s .eflush s.regs.clearPair {}
  | breqZero (idle : s.regs.busy = false) (seeded : s.regs.seeded = true) :
      Completes s (.breq 0) s.regs { done := true }
  | breq (n : Half) (idle : s.regs.busy = false) (seeded : s.regs.seeded = true) (positive : n ≠ 0) :
      Completes s (.breq n) (s.regs.startRequest n) {}
  | bstepInside (c : Bit) (busy : s.regs.busy = true)
      (inside : s.regs.bpos + 1 ≠ batchLength s.regs.req) :
      Completes s (.bstep c)
        { s.regs.takeRaw c with
          pv := (s.regs.feedRaw c).1, pb := (s.regs.feedRaw c).2.1, bpos := s.regs.bpos + 1 }
        (Response.emit (s.regs.delivered c))
  | bstepDone (c : Bit) (busy : s.regs.busy = true) (last : s.regs.bpos + 1 = batchLength s.regs.req)
      (full : (s.regs.takeRaw c).coll = s.regs.req) :
      Completes s (.bstep c) (s.regs.takeRaw c).closeBatch.finishRequest
        { Response.emit (s.regs.delivered c) with done := true }
  | bstepExhausted (c : Bit) (busy : s.regs.busy = true)
      (last : s.regs.bpos + 1 = batchLength s.regs.req) (short : (s.regs.takeRaw c).coll ≠ s.regs.req)
      (spent : retryExhausted s.cfg (s.regs.batches + 1) = true) :
      Completes s (.bstep c) ({ (s.regs.takeRaw c).closeBatch with busy := false }.setErr .exhausted)
        { Response.emit (s.regs.delivered c) with st := .exhausted }
  | bstepNextBatch (c : Bit) (busy : s.regs.busy = true)
      (last : s.regs.bpos + 1 = batchLength s.regs.req) (short : (s.regs.takeRaw c).coll ≠ s.regs.req)
      (more : retryExhausted s.cfg (s.regs.batches + 1) = false) :
      Completes s (.bstep c) (s.regs.takeRaw c).closeBatch (Response.emit (s.regs.delivered c))
  | babort (busy : s.regs.busy = true) : Completes s .babort s.regs.cancelRequest {}
  | babortIdle (idle : s.regs.busy = false) : Completes s .babort s.regs {}
  | rdreg {sel : Sel} {v : Half} (view : s.regs.view sel = some v) :
      Completes s (.rdreg sel) s.regs { data := v }
  | turnedAwayBusy {i : Instr} (needs : needsIdle i = true) (busy : s.regs.busy = true) :
      Completes s i (s.regs.setErr .busy) { st := .busy }
  | turnedAwayUnseeded {i : Instr} (needs : needsSeed i = true) (idle : s.regs.busy = false)
      (unseeded : s.regs.seeded = false) :
      Completes s i (s.regs.setErr .noseed) { st := .noseed }
  | bstepIdle (c : Bit) (idle : s.regs.busy = false) :
      Completes s (.bstep c) (s.regs.setErr .idle) { st := .idle }
  | rdregReserved {sel : Sel} (reserved : s.regs.view sel = none) :
      Completes s (.rdreg sel) (s.regs.setErr .illegal) { st := .illegal }

/-- What `needsIdle` says of `exec`. -/
theorem exec_of_needsIdle {i : Instr} (needs : needsIdle i = true) (s : State) :
    ∃ k, exec i s = unlessBusy s k := by
  cases i <;> cases needs <;> exact ⟨_, rfl⟩

/-- What `needsSeed` says of `exec`: BUSY is tested first (R223). -/
theorem exec_of_needsSeed {i : Instr} (needs : needsSeed i = true) (s : State) :
    ∃ k, exec i s = unlessBusy s (whenSeeded s k) := by
  cases i <;> cases needs <;> exact ⟨_, rfl⟩

/-- `BSTEP` of the last raw bit of a batch goes to the stop tests (R162). -/
theorem exec_bstep_last {s : State} (busy : s.regs.busy = true)
    (last : s.regs.bpos + 1 = batchLength s.regs.req) (c : Bit) :
    exec (.bstep c) s = endBatch s (s.regs.takeRaw c).closeBatch (Response.emit (s.regs.delivered c)) :=
  (whenBusy_busy busy _).trans (if_pos last)

/-- A way of `Completes` is what `exec` does. -/
theorem Completes.exec_eq {i : Instr} {s : State} {r : Regs} {x : Response} (h : Completes s i r x) :
    exec i s = complete s r x := by
  cases h with
  | nop => rfl
  | seed imm idle => exact unlessBusy_idle idle _
  | lstep idle seeded => exact (unlessBusy_idle idle _).trans (whenSeeded_seeded seeded _)
  | raw c idle seeded => exact (unlessBusy_idle idle _).trans (whenSeeded_seeded seeded _)
  | ext b idle => exact unlessBusy_idle idle _
  | eflush idle => exact unlessBusy_idle idle _
  | breqZero idle seeded => exact (unlessBusy_idle idle _).trans (whenSeeded_seeded seeded _)
  | breq n idle seeded positive =>
    exact ((unlessBusy_idle idle _).trans (whenSeeded_seeded seeded _)).trans (if_neg positive)
  | bstepInside c busy inside => exact (whenBusy_busy busy _).trans (if_neg inside)
  | bstepDone c busy last full => exact (exec_bstep_last busy last c).trans (if_pos full)
  | bstepExhausted c busy last short spent =>
    exact (exec_bstep_last busy last c).trans ((if_neg short).trans (if_pos spent))
  | bstepNextBatch c busy last short more =>
    exact (exec_bstep_last busy last c).trans ((if_neg short).trans (if_neg (by simpa using more)))
  | babort busy => exact if_pos busy
  | babortIdle idle => exact if_neg (by simpa using idle)
  | rdreg view => simp only [exec, execRdreg, view]
  | turnedAwayBusy needs busy =>
    obtain ⟨k, hk⟩ := exec_of_needsIdle needs s
    exact hk.trans (unlessBusy_busy busy k)
  | turnedAwayUnseeded needs idle unseeded =>
    obtain ⟨k, hk⟩ := exec_of_needsSeed needs s
    exact hk.trans ((unlessBusy_idle idle _).trans (whenSeeded_unseeded unseeded k))
  | bstepIdle c idle => exact whenBusy_idle idle _
  | rdregReserved reserved => simp only [exec, execRdreg, reserved]; rfl

/-- A command that needs an idle block has a way if it has one when the block is idle. -/
theorem exists_completes_of_idle {i : Instr} {s : State} (needs : needsIdle i = true)
    (way : s.regs.busy = false → ∃ r x, Completes s i r x) : ∃ r x, Completes s i r x := by
  cases hb : s.regs.busy with
  | true => exact ⟨_, _, .turnedAwayBusy needs hb⟩
  | false => exact way hb

/-- A command that also needs a seed has a way if it has one when the block is idle and seeded. -/
theorem exists_completes_of_ready {i : Instr} {s : State} (idles : needsIdle i = true)
    (needs : needsSeed i = true)
    (way : s.regs.busy = false → s.regs.seeded = true → ∃ r x, Completes s i r x) :
    ∃ r x, Completes s i r x := by
  refine exists_completes_of_idle idles fun idle => ?_
  cases hs : s.regs.seeded with
  | false => exact ⟨_, _, .turnedAwayUnseeded needs idle hs⟩
  | true => exact way idle hs

/-- `BSTEP` with no request, inside a batch, and at the three ends of a batch (R162). -/
theorem exists_completes_bstep (c : Bit) (s : State) : ∃ r x, Completes s (.bstep c) r x := by
  cases hb : s.regs.busy with
  | false => exact ⟨_, _, .bstepIdle c hb⟩
  | true =>
    by_cases last : s.regs.bpos + 1 = batchLength s.regs.req
    · by_cases full : (s.regs.takeRaw c).coll = s.regs.req
      · exact ⟨_, _, .bstepDone c hb last full⟩
      · cases spent : retryExhausted s.cfg (s.regs.batches + 1) with
        | true => exact ⟨_, _, .bstepExhausted c hb last full spent⟩
        | false => exact ⟨_, _, .bstepNextBatch c hb last full spent⟩
    · exact ⟨_, _, .bstepInside c hb last⟩

/-- The ways of `Completes` cover every command in every state. -/
theorem exists_completes (i : Instr) (s : State) : ∃ r x, Completes s i r x := by
  cases i with
  | nop => exact ⟨_, _, .nop⟩
  | seed imm => exact exists_completes_of_idle rfl fun idle => ⟨_, _, .seed imm idle⟩
  | lstep => exact exists_completes_of_ready rfl rfl fun idle seeded => ⟨_, _, .lstep idle seeded⟩
  | raw c => exact exists_completes_of_ready rfl rfl fun idle seeded => ⟨_, _, .raw c idle seeded⟩
  | ext b => exact exists_completes_of_idle rfl fun idle => ⟨_, _, .ext b idle⟩
  | eflush => exact exists_completes_of_idle rfl fun idle => ⟨_, _, .eflush idle⟩
  | breq n =>
    refine exists_completes_of_ready rfl rfl fun idle seeded => ?_
    by_cases hn : n = 0
    · subst hn
      exact ⟨_, _, .breqZero idle seeded⟩
    · exact ⟨_, _, .breq n idle seeded hn⟩
  | bstep c => exact exists_completes_bstep c s
  | babort =>
    cases hb : s.regs.busy with
    | true => exact ⟨_, _, .babort hb⟩
    | false => exact ⟨_, _, .babortIdle hb⟩
  | rdreg sel =>
    cases hv : s.regs.view sel with
    | some v => exact ⟨_, _, .rdreg hv⟩
    | none => exact ⟨_, _, .rdregReserved hv⟩

/-- The way a command went, read off the state and the response it is known to have answered. -/
theorem completes_of_exec {i : Instr} {s t : State} {w : Word} (h : exec i s = .next t)
    (hw : t.rsp = s.rsp ++ [w]) : ∃ x, Completes s i t.regs x ∧ w = x.word t.regs.busy := by
  obtain ⟨r, x, hc⟩ := exists_completes i s
  obtain rfl : s.After r (x.word r.busy) = t := by simpa [hc.exec_eq] using h
  exact ⟨x, hc, by simpa [eq_comm] using hw⟩

/-- A command word goes the way of the command it decodes to, or is turned away with ILLEGAL (R75, R76). -/
theorem takeCommand_eq_complete (c : Word) (s : State) :
    (∃ i r x, decode c = .ok i ∧ Completes s i r x ∧ takeCommand c s = complete s r x) ∨
      ((∃ e, decode c = .error e) ∧ takeCommand c s = raiseError .illegal s) := by
  cases h : decode c with
  | ok i =>
    obtain ⟨r, x, hc⟩ := exists_completes i s
    exact .inl ⟨i, r, x, rfl, hc, (takeCommand_ok h s).trans hc.exec_eq⟩
  | error e => exact .inr ⟨⟨e, rfl⟩, takeCommand_illegal h s⟩

/-! ## What the way a command goes says about one register

The frame and the writes of each command stand in `Completes`, so a rule on one register is a case split over it. -/

section
variable {s : State} {i : Instr} {r : Regs} {x : Response}

/-- The codes of R220 tell the statuses apart. -/
@[simp] theorem Status.code_inj {d e : Status} : d.code = e.code ↔ d = e := by
  cases d <;> cases e <;> decide

/-- Adding the sticky bit of a status is adding bit k−1 of its code k (R31). -/
theorem or_errBit_eq (errs : ErrBits) (e : Status) :
    errs ||| e.errBit = if e.code = 0 then errs else errs ||| 1#5 <<< (e.code.toNat - 1) := by
  cases e <;> simp [Status.errBit, Status.code]

/-- `ERRS` gains the bit of the reported status, in every command (R31). -/
theorem Completes.errs_eq (h : Completes s i r x) : r.errs = s.regs.errs ||| x.st.errBit := by
  cases h <;> simp [Status.errBit]

/-- `SEEDED` is written by a `SEED` that completes (R23). -/
theorem Completes.seeded_iff (h : Completes s i r x) :
    r.seeded = true ↔ s.regs.seeded = true ∨ (s.regs.busy = false ∧ ∃ imm, i = .seed imm) := by
  cases h with
  | seed imm idle => simp [idle]
  | turnedAwayBusy needs busy => simp [busy]
  | turnedAwayUnseeded needs =>
    have notSeed : ¬∃ imm, i = .seed imm := by
      rintro ⟨imm, rfl⟩
      cases needs
    simp [notSeed]
  | _ => simp

/-- The two ways of `SEED` (R104). -/
theorem Completes.seed_cases {imm : Half} (h : Completes s (.seed imm) r x) :
    (s.regs.busy = false ∧ r = s.regs.seedWith imm ∧ x = {}) ∨
      (s.regs.busy = true ∧ r = s.regs.setErr .busy ∧ x = { st := .busy }) := by
  cases h with
  | seed _ idle => exact .inl ⟨idle, rfl, rfl⟩
  | turnedAwayBusy needs busy => exact .inr ⟨busy, rfl, rfl⟩
  | turnedAwayUnseeded needs => cases needs

/-- The chaotic bits consumed, read off the response before it is a word (R255, R257). -/
theorem chaosConsumed_word (i : Instr) (x : Response) (b : Bit) :
    chaosConsumed i (x.word b) =
      if (∃ c, i = .raw c ∨ i = .bstep c) ∧ (x.st = .ok ∨ x.st = .exhausted) then 1 else 0 := by
  cases i <;> simp [chaosConsumed]

/-- `RAWCNT` and the LFSR move with the chaotic bits consumed, `SEED` and `LSTEP` apart (R25, R105). -/
theorem Completes.rawcnt_and_lfsr (h : Completes s i r x) (notSeed : ∀ imm, i ≠ .seed imm) (b : Bit) :
    r.rawcnt = s.regs.rawcnt + BitVec.ofNat 32 (chaosConsumed i (x.word b)) ∧
      (chaosConsumed i (x.word b) = 1 → r.lfsr = (lfsrNext s.regs.lfsr).1) ∧
      (chaosConsumed i (x.word b) = 0 → i ≠ .lstep → r.lfsr = s.regs.lfsr) := by
  rw [chaosConsumed_word]
  cases h with
  | seed imm => exact absurd rfl (notSeed imm)
  | _ => simp

/-- `BALCNT` grows only where a `BSTEP` reports DONE, `SEED` apart (R26). -/
theorem Completes.balcnt_eq (h : Completes s i r x) (notSeed : ∀ imm, i ≠ .seed imm) :
    r.balcnt = if x.done = true ∧ i ≠ .breq 0 then s.regs.balcnt + s.regs.req.setWidth 32
      else s.regs.balcnt := by
  cases h with
  | seed imm => exact absurd rfl (notSeed imm)
  | _ => simp

end

/-- R31 of a command word: an illegal word's `ERRS` moves by the same rule. -/
theorem takeCommand_errs (c : Word) (s : State) :
    ∃ r x, takeCommand c s = complete s r x ∧ r.errs = s.regs.errs ||| x.st.errBit := by
  rcases takeCommand_eq_complete c s with ⟨i, r, x, -, hc, he⟩ | ⟨-, he⟩
  · exact ⟨r, x, he, hc.errs_eq⟩
  · exact ⟨_, _, he, rfl⟩

/-- R34 (a) read the other way. -/
theorem Regs.Inv.idle_of_unseeded {r : Regs} (hr : r.Inv) (h : r.seeded = false) : r.busy = false := by
  cases hb : r.busy with
  | false => rfl
  | true => simp [hr.busy_seeded hb] at h

/-! ## The selector map -/

/-- The rows of R33 as data: a selector's number and the value it reads. -/
def Regs.selectorRows (r : Regs) : List (Nat × Half) :=
  [(0, r.lfsr), (1, r.status), (2, r.rawcnt.extractLsb' 0 16), (3, r.rawcnt.extractLsb' 16 16),
   (4, r.balcnt.extractLsb' 0 16), (5, r.balcnt.extractLsb' 16 16), (6, r.req), (7, r.coll),
   (8, r.bpos.extractLsb' 0 16), (9, (r.bpos.extractLsb' 16 2).setWidth 16), (10, r.batches)]

theorem Regs.view_eq_some_iff (r : Regs) (sel : Sel) (v : Half) :
    r.view sel = some v ↔ (sel.toNat, v) ∈ r.selectorRows := by
  unfold Regs.view Regs.selectorRows
  split
  case h_12 => simp_all
  all_goals simp [*, eq_comm]

theorem Regs.view_reserved (r : Regs) {sel : Sel} (h : 10 < sel.toNat) : r.view sel = none := by
  unfold Regs.view
  split
  case h_12 => rfl
  all_goals omega

/-- The SEL field of `RDREG`'s word is its operand (R70, R73). -/
theorem cmdSel_selField (sel : Sel) : cmdSel (selField sel ||| 0x9) = sel := by
  ext i hi
  interval_cases i <;> simp [cmdSel, selField]

theorem decode_encode_rdreg (sel : Sel) : decode (encode (.rdreg sel)) = .ok (.rdreg sel) := by
  rw [decode_eq_ok_iff]
  refine ⟨{ pattern := 0x00000009, mask := 0xFFFF00FF, build := fun w => .rdreg (cmdSel w) },
    by simp [opcodeRows], ?_, congrArg Instr.rdreg (cmdSel_selField sel)⟩
  exact beq_iff_eq.mpr (Laws.OwnRow.rdreg sel)

/-! ## The obligations on the state -/

/-- Settles O29, by the selector map and the word of `RDREG`. -/
theorem rdregReadsTheSelectorMap : Obligations.RdregReadsTheSelectorMap := by
  intro sel s
  refine ⟨fun v hv => ?_, fun hsel => ?_, decode_encode_rdreg sel⟩
  · have hview : s.regs.view sel = some v := (s.regs.view_eq_some_iff sel v).mpr hv
    rw [(Completes.rdreg hview).exec_eq, complete_eq, word_data]
  · have hview : s.regs.view sel = none := s.regs.view_reserved hsel
    rw [(Completes.rdregReserved hview).exec_eq, complete_eq, word_error]
    rfl

/-- Settles O34: every command word adds the bit of the status it reports. -/
theorem errsBitsAreSticky : Obligations.ErrsBitsAreSticky := by
  intro s rest
  refine ⟨fun c hp => ?_, fun hp => ⟨_, step_rst hp, rfl⟩⟩
  obtain ⟨r, x, he, herrs⟩ := takeCommand_errs c { s with pending := rest }
  refine ⟨_, _, (step_cmd hp).trans he, rfl, ?_⟩
  rw [rspSt_word, ← or_errBit_eq]
  exact herrs

/-- Settles O43: the writer of `SEEDED` over the ways of a command, and R34 (a) for the commands that need a
seed. -/
theorem seededIsSetBySeedOnly : Obligations.SeededIsSetBySeedOnly := by
  refine ⟨rfl, fun s rest c hp => ?_, fun s i b n hinv unseeded hi => ?_⟩
  · rw [step_cmd hp]
    rcases takeCommand_eq_complete c { s with pending := rest } with
      ⟨i, r, x, hd, hc, he⟩ | ⟨⟨e, hd⟩, he⟩
    · exact ⟨_, he, by simpa [hd] using hc.seeded_iff⟩
    · exact ⟨_, he, by simp [hd]⟩
  · have needs : needsSeed i = true := by
      simp only [List.mem_cons, List.not_mem_nil, or_false] at hi
      rcases hi with rfl | rfl | rfl <;> rfl
    refine ⟨_, _,
      (Completes.turnedAwayUnseeded needs (hinv.idle_of_unseeded unseeded) unseeded).exec_eq, rfl, ?_⟩
    rw [rspSt_word]
    rfl

/-- Settles O45, from the ways of `SEED` and of every other command. -/
theorem rawcntCountsConsumedChaoticBits : Obligations.RawcntCountsConsumedChaoticBits := by
  intro i s t w h hw
  obtain ⟨x, hc, rfl⟩ := completes_of_exec h hw
  refine ⟨?_, fun notSeed => hc.rawcnt_and_lfsr notSeed _⟩
  rintro imm rfl
  rcases hc.seed_cases with ⟨-, hr, rfl⟩ | ⟨-, hr, rfl⟩ <;> simp [hr, Status.code]

/-- Settles O46, from the ways of `SEED` and of every other command. -/
theorem balcntCountsCompletedRequests : Obligations.BalcntCountsCompletedRequests := by
  intro i s t w h hw
  obtain ⟨x, hc, rfl⟩ := completes_of_exec h hw
  refine ⟨?_, fun notSeed => by simpa using hc.balcnt_eq notSeed⟩
  rintro imm rfl
  rcases hc.seed_cases with ⟨-, hr, rfl⟩ | ⟨-, hr, rfl⟩ <;> simp [hr, Status.code]

end Sys2Proof.Machine
end

section
/-! SUPPORT and PROOFS of the statements on the encoding (spec/30_encoding.md): the opcode map read command by
command, a row's selection read field by field, and the obligations O3 and O4. -/
namespace Sys2Proof

/-! ## The map, command by command -/

/-- The operand of the command is the one the word carries (R73). -/
def CarriesOperand (w : Word) : Instr → Prop
  | .seed x | .breq x => x = cmdImm w
  | .raw b | .ext b | .bstep b => b = cmdB w
  | .rdreg x => x = cmdSel w
  | .nop | .lstep | .eflush | .babort => True

/-- R72 and R73 for every command: the mask and match of its row, and its operand. -/
theorem decode_eq_ok_iff_maskMatch (w : Word) (i : Instr) :
    decode w = .ok i ↔ w &&& (Laws.maskMatch i).1 = (Laws.maskMatch i).2 ∧ CarriesOperand w i := by
  rw [decode_eq_ok_iff]
  cases i <;> simp [opcodeRows, OpcodeRow.selects, Laws.maskMatch, CarriesOperand,
    eq_comm (a := cmdImm w), eq_comm (a := cmdB w), eq_comm (a := cmdSel w)]

/-- A word is a command when some row selects it (R76). -/
theorem exists_decode_ok_iff (w : Word) :
    (∃ i, decode w = .ok i) ↔ ∃ r ∈ opcodeRows, r.selects w = true := by
  constructor
  · rintro ⟨i, h⟩
    obtain ⟨r, hr, hw, -⟩ := (decode_eq_ok_iff w i).mp h
    exact ⟨r, hr, hw⟩
  · rintro ⟨r, hr, hw⟩
    exact ⟨r.build w, (decode_eq_ok_iff w _).mpr ⟨r, hr, hw, rfl⟩⟩

/-- The decoder is total: what is no command is an error (R76). -/
theorem exists_decode_error_iff (w : Word) : (∃ e, decode w = .error e) ↔ ¬∃ i, decode w = .ok i := by
  cases decode w <;> simp

/-! ## Selection, field by field -/

/-- R70: the five fields are the whole word. -/
theorem append_fields (w : Word) :
    cmdImm w ++ cmdSel w ++ cmdRsv w ++ BitVec.ofBool (cmdB w) ++ cmdOp w = w := by
  apply BitVec.eq_of_getLsbD_eq
  intro i hi
  simp only [cmdImm, cmdSel, cmdRsv, cmdB, cmdOp, BitVec.getLsbD_append]
  interval_cases i <;> simp

theorem fieldsOf_inj {v w : Word} : fieldsOf v = fieldsOf w ↔ v = w := by
  refine ⟨fun h => ?_, congrArg fieldsOf⟩
  simp only [fieldsOf, CmdFields.mk.injEq] at h
  obtain ⟨op, b, rsv, sel, imm⟩ := h
  rw [← append_fields v, ← append_fields w, op, b, rsv, sel, imm]

theorem fieldsOf_and (v w : Word) :
    fieldsOf (v &&& w) =
      { op := cmdOp v &&& cmdOp w, b := cmdB v && cmdB w, rsv := cmdRsv v &&& cmdRsv w,
        sel := cmdSel v &&& cmdSel w, imm := cmdImm v &&& cmdImm w } := by
  simp [fieldsOf, cmdOp, cmdB, cmdRsv, cmdSel, cmdImm, BitVec.extractLsb'_and]

/-- R74 in the order of the fields. -/
theorem CmdFields.wellFormed_iff (f : CmdFields) :
    f.wellFormed = true ↔ opUsed f.op = true ∧ (opUsesB f.op || !f.b) = true ∧ f.rsv = 0 ∧
      (opUsesSel f.op || f.sel == 0) = true ∧ (opUsesImm f.op || f.imm == 0) = true := by
  simp only [CmdFields.wellFormed, Bool.and_eq_true, beq_iff_eq, and_assoc, and_left_comm]

/-- The mask of an opcode's row by R74: it checks the opcode, `RSV` and every field that the opcode does not
use. `opcodeRows_strict` says that the map has these masks. -/
def strictMask (op : BitVec 4) : CmdFields :=
  { op := BitVec.allOnes 4
    b := !opUsesB op
    rsv := BitVec.allOnes 3
    sel := if opUsesSel op then 0 else BitVec.allOnes 8
    imm := if opUsesImm op then 0 else BitVec.allOnes 16 }

/-- Every row checks its opcode and that every field it does not use is 0 (R72, R74). -/
theorem opcodeRows_strict : ∀ r ∈ opcodeRows,
    opUsed (cmdOp r.pattern) = true ∧ fieldsOf r.mask = strictMask (cmdOp r.pattern) ∧
      fieldsOf r.pattern = { op := cmdOp r.pattern, b := false, rsv := 0, sel := 0, imm := 0 } := by
  decide

/-- Every used opcode has a row (R72). -/
theorem exists_row_of_opUsed :
    ∀ op, opUsed op = true → ∃ r ∈ opcodeRows, cmdOp r.pattern = op := by decide

/-- A field under a mask that is all ones unless the field is used: the check of R74. -/
theorem and_ite_allOnes_eq_zero {n : Nat} (used : Bool) (x : BitVec n) :
    x &&& (if used = true then 0 else BitVec.allOnes n) = 0 ↔ (used || x == 0) = true := by
  cases used <;> simp

/-- A row selects the well-formed words of its opcode. -/
theorem selects_iff_wellFormed {r : OpcodeRow} (hr : r ∈ opcodeRows) (w : Word) :
    r.selects w = true ↔ cmdOp w = cmdOp r.pattern ∧ (fieldsOf w).wellFormed = true := by
  obtain ⟨used, mask, pattern⟩ := opcodeRows_strict r hr
  simp only [fieldsOf, strictMask, CmdFields.mk.injEq] at mask
  obtain ⟨mop, mb, mrsv, msel, mimm⟩ := mask
  have fields : r.selects w = true ↔ fieldsOf (w &&& r.mask) = fieldsOf r.pattern := by
    rw [fieldsOf_inj, OpcodeRow.selects, beq_iff_eq]
  have bit : (cmdB w && !opUsesB (cmdOp r.pattern)) = false ↔
      (opUsesB (cmdOp r.pattern) || !cmdB w) = true := by
    cases cmdB w <;> simp
  rw [fields, fieldsOf_and, pattern, mop, mb, mrsv, msel, mimm]
  simp only [CmdFields.mk.injEq, BitVec.and_allOnes, and_ite_allOnes_eq_zero, bit]
  refine and_congr_right fun op => ?_
  simp only [CmdFields.wellFormed_iff, fieldsOf, op, used, true_and]

/-- R74, R75: the well-formed words are the commands. -/
theorem exists_decode_ok_iff_wellFormed (w : Word) :
    (∃ i, decode w = .ok i) ↔ (fieldsOf w).wellFormed = true := by
  rw [exists_decode_ok_iff]
  constructor
  · rintro ⟨r, hr, hw⟩
    exact ((selects_iff_wellFormed hr w).mp hw).2
  · intro h
    obtain ⟨used, -⟩ := (CmdFields.wellFormed_iff _).mp h
    obtain ⟨r, hr, hop⟩ := exists_row_of_opUsed _ used
    exact ⟨r, hr, (selects_iff_wellFormed hr w).mpr ⟨hop.symm, h⟩⟩

/-! ## The obligations on the encoding -/

/-- Settles O3: each clause is R72 of one command, and the last is that no row selects the word. -/
theorem maskAndMatchSelectTheCommand : Obligations.MaskAndMatchSelectTheCommand := by
  intro w
  have ok := decode_eq_ok_iff_maskMatch w
  refine ⟨(ok .nop).trans (and_iff_left trivial), fun x => ok (.seed x),
    (ok .lstep).trans (and_iff_left trivial), fun b => ok (.raw b), fun b => ok (.ext b),
    (ok .eflush).trans (and_iff_left trivial), fun x => ok (.breq x), fun b => ok (.bstep b),
    (ok .babort).trans (and_iff_left trivial), fun x => ok (.rdreg x), ?_⟩
  rw [exists_decode_error_iff, exists_decode_ok_iff]
  simp [opcodeRows, OpcodeRow.selects]

/-- Settles O4: the well-formed words are the commands, and any other word is turned away with ILLEGAL. -/
theorem nonzeroUnusedFieldReportsIllegal : Obligations.NonzeroUnusedFieldReportsIllegal := by
  intro w s
  refine ⟨(exists_decode_ok_iff_wellFormed w).mpr, fun illFormed => ?_⟩
  obtain ⟨e, he⟩ : ∃ e, decode w = .error e := by
    rw [exists_decode_error_iff, exists_decode_ok_iff_wellFormed, illFormed]
    exact Bool.false_ne_true
  rw [Machine.takeCommand_illegal he, Machine.raiseError_eq, Machine.word_error]
  rfl

end Sys2Proof
end

section
/-! SUPPORT and PROOFS of the statements on the LFSR (spec/40_lfsr.md): the bits of a step and of a sequence of
steps, the step as a function of bits 15:1, the two ways a command is turned away, and the obligations O15, O16,
O17, O21 and O22. -/
namespace Sys2Proof.Machine

/-! ## The bits of a step -/

/-- Below bit 15 a step is a shift right (R100). -/
theorem lfsrNext_getLsbD {k : Nat} (hk : k < 15) (s : Half) :
    (lfsrNext s).1.getLsbD k = s.getLsbD (k + 1) := by
  refine (BitVec.getLsbD_append ..).trans ?_
  simp [hk, Nat.add_comm]

/-- The feedback enters at bit 15 (R100). -/
theorem lfsrNext_getLsbD_top (s : Half) : (lfsrNext s).1.getLsbD 15 = lfsrFeedback s := by
  refine (BitVec.getLsbD_append ..).trans ?_
  simp

/-! ## The outputs of a sequence of steps -/

/-- After `n` steps bit k is the bit that stood `n` places above, as long as that was one of the 16. -/
theorem lfsrState_getLsbD {n k : Nat} (hk : k + n ≤ 15) (s : Half) :
    (lfsrState s n).getLsbD k = s.getLsbD (k + n) := by
  induction n generalizing k with
  | zero => rfl
  | succ n ih =>
    calc (lfsrState s (n + 1)).getLsbD k
        = (lfsrState s n).getLsbD (k + 1) := lfsrNext_getLsbD (by omega) _
      _ = s.getLsbD (k + 1 + n) := ih (by omega)
      _ = s.getLsbD (k + (n + 1)) := by rw [Nat.add_right_comm, Nat.add_assoc]

/-- The bits of a state are its next 16 outputs (R101). -/
theorem lfsrOut_add {k : Nat} (hk : k ≤ 15) (s : Half) (t : Nat) :
    lfsrOut s (t + k) = (lfsrState s t).getLsbD k := by
  have bit : (lfsrState (lfsrState s t) k).getLsbD 0 = (lfsrState s t).getLsbD (0 + k) :=
    lfsrState_getLsbD (by omega) _
  rw [Nat.zero_add] at bit
  rw [lfsrOut, lfsrNext_out, lfsrState_add, bit]

/-- The output 16 steps later is the feedback of the state (R101). -/
theorem lfsrOut_add_sixteen (s : Half) (t : Nat) : lfsrOut s (t + 16) = lfsrFeedback (lfsrState s t) :=
  calc lfsrOut s (t + 16)
      = lfsrOut s ((t + 1) + 15) := rfl
    _ = (lfsrState s (t + 1)).getLsbD 15 := lfsrOut_add le_rfl s (t + 1)
    _ = lfsrFeedback (lfsrState s t) := lfsrNext_getLsbD_top _

/-! ## The step forgets bit 0 and nothing else -/

theorem extractLsb'_one_eq_iff_bits (a b : Half) :
    a.extractLsb' 1 15 = b.extractLsb' 1 15 ↔ ∀ k < 15, a.getLsbD (k + 1) = b.getLsbD (k + 1) := by
  rw [BitVec.eq_of_getLsbD_eq_iff]
  refine forall₂_congr fun k hk => ?_
  simp [hk, Nat.add_comm]

/-- Two states have one successor exactly when they agree in bits 15:1 (R102). -/
theorem lfsrNext_state_eq_iff (a b : Half) :
    (lfsrNext a).1 = (lfsrNext b).1 ↔ a.extractLsb' 1 15 = b.extractLsb' 1 15 := by
  constructor
  · intro h
    refine (extractLsb'_one_eq_iff_bits a b).mpr fun k hk => ?_
    rw [← lfsrNext_getLsbD hk a, ← lfsrNext_getLsbD hk b, h]
  · intro h
    have bit := (extractLsb'_one_eq_iff_bits a b).mp h
    have feedback : lfsrFeedback a = lfsrFeedback b := by
      simp only [lfsrFeedback, bit 14 (by decide), bit 12 (by decide), bit 11 (by decide), bit 9 (by decide)]
    simp only [lfsrNext, h, feedback]

/-- Bit 0 is the one bit that `^^^ 1` changes. -/
theorem getLsbD_xor_one (b : Half) (k : Nat) :
    (b ^^^ 0x0001).getLsbD k = if k = 0 then !b.getLsbD 0 else b.getLsbD k := by
  by_cases hk : k = 0 <;> simp [hk, BitVec.getLsbD_one]

/-- Agreeing in bits 15:1 is being equal or differing in bit 0 alone. -/
theorem extractLsb'_one_eq_iff (a b : Half) :
    a.extractLsb' 1 15 = b.extractLsb' 1 15 ↔ a = b ∨ a = b ^^^ 0x0001 := by
  rw [extractLsb'_one_eq_iff_bits]
  constructor
  · intro bit
    by_cases low : a.getLsbD 0 = b.getLsbD 0
    · refine .inl (BitVec.eq_of_getLsbD_eq fun k hk => ?_)
      cases k with
      | zero => exact low
      | succ k => exact bit k (by omega)
    · refine .inr (BitVec.eq_of_getLsbD_eq fun k hk => ?_)
      rw [getLsbD_xor_one]
      cases k with
      | zero => simpa using Bool.eq_not_of_ne low
      | succ k => exact bit k (by omega)
  · rintro (rfl | rfl) k hk
    · rfl
    · rw [getLsbD_xor_one, if_neg k.succ_ne_zero]

/-- The successor of the two states with these bits 15:1. -/
def lfsrImage (u : BitVec 15) : Half := (lfsrNext (u ++ 0#1)).1

theorem lfsrNext_state_eq_image (s : Half) : (lfsrNext s).1 = lfsrImage (s.extractLsb' 1 15) :=
  (lfsrNext_state_eq_iff _ _).mpr BitVec.extractLsb'_append_eq_left.symm

theorem lfsrImage_injective : Function.Injective lfsrImage := by
  intro u v h
  have tops := (lfsrNext_state_eq_iff (u ++ 0#1) (v ++ 0#1)).mp h
  rwa [BitVec.extractLsb'_append_eq_left, BitVec.extractLsb'_append_eq_left] at tops

/-- The states with a predecessor are the images (R102). -/
theorem exists_lfsrNext_state_iff (t : Half) : (∃ s, (lfsrNext s).1 = t) ↔ ∃ u, lfsrImage u = t := by
  constructor
  · rintro ⟨s, rfl⟩
    exact ⟨_, (lfsrNext_state_eq_image s).symm⟩
  · rintro ⟨u, rfl⟩
    exact ⟨_, rfl⟩

/-! ## Commands turned away -/

/-- The whole next state of a command turned away with BUSY (R220, R221). -/
theorem exec_turnedAwayBusy {i : Instr} {s : State} (needs : needsIdle i = true) (busy : s.regs.busy = true) :
    exec i s = .next (s.After { s.regs with errs := s.regs.errs ||| 0b00100 } 0x00000038) := by
  rw [(Completes.turnedAwayBusy needs busy).exec_eq, complete_eq, word_error, Regs.setErr_busy, busy]
  rfl

/-- The whole next state of a command turned away with NOSEED (R220, R221). -/
theorem exec_turnedAwayUnseeded {i : Instr} {s : State} (needs : needsSeed i = true)
    (idle : s.regs.busy = false) (unseeded : s.regs.seeded = false) :
    exec i s = .next (s.After { s.regs with errs := s.regs.errs ||| 0b00010 } 0x00000020) := by
  rw [(Completes.turnedAwayUnseeded needs idle unseeded).exec_eq, complete_eq, word_error, Regs.setErr_busy,
    idle]
  rfl

/-! ## `SEED`'s word -/

/-- The IMM field of a word with an immediate is that immediate (R70, R73). -/
theorem cmdImm_immField (imm : Half) : cmdImm (immField imm ||| 0x1) = imm := by
  ext k hk
  interval_cases k <;> simp [cmdImm, immField]

theorem decode_encode_seed (imm : Half) : decode (encode (.seed imm)) = .ok (.seed imm) :=
  (decode_eq_ok_iff_maskMatch _ _).mpr ⟨Laws.OwnRow.seed imm, (cmdImm_immField imm).symm⟩

/-! ## The obligations on the LFSR -/

/-- Settles O15: the bits of a step. -/
theorem lfsrStepShiftsInTheFeedback : Obligations.LfsrStepShiftsInTheFeedback :=
  fun s => ⟨lfsrNext_out s, fun _ hk => lfsrNext_getLsbD hk s, lfsrNext_getLsbD_top s⟩

/-- Settles O16: the taps of the feedback are outputs of the state before. -/
theorem lfsrOutputsFollowTheRecurrence : Obligations.LfsrOutputsFollowTheRecurrence := by
  intro s
  refine ⟨fun t ht => ?_, fun t => ?_⟩
  · simpa [lfsrState] using lfsrOut_add ht s 0
  · rw [lfsrOut_add_sixteen, lfsrFeedback, lfsrOut_add (by decide), lfsrOut_add (by decide),
      lfsrOut_add (by decide), lfsrOut_add (by decide)]

/-- Settles O17: the step is an injective function of bits 15:1. -/
theorem lfsrStepIsTwoToOne : Obligations.LfsrStepIsTwoToOne := by
  have same (a b : Half) : (lfsrNext a).1 = (lfsrNext b).1 ↔ a = b ∨ a = b ^^^ 0x0001 :=
    (lfsrNext_state_eq_iff a b).trans (extractLsb'_one_eq_iff a b)
  refine ⟨same, fun a => ?_, ⟨lfsrImage, lfsrImage_injective, exists_lfsrNext_state_iff⟩, rfl, rfl,
    fun s => same s 0x0000⟩
  rw [ne_comm]
  simp

/-- Settles O21, from the two ways of `SEED`. -/
theorem seedStartsAFreshGenerator : Obligations.SeedStartsAFreshGenerator := by
  intro imm s
  refine ⟨fun idle => ?_, exec_turnedAwayBusy rfl, decode_encode_seed imm⟩
  rw [(Completes.seed imm idle).exec_eq, complete_eq, word_ok, Regs.seedWith_busy, idle, Regs.seedWith, idle]
  rfl

/-- Settles O22, from the three ways of `LSTEP`. -/
theorem lstepReturnsTheLfsrBit : Obligations.LstepReturnsTheLfsrBit := by
  intro s
  refine ⟨fun idle seeded => ?_, exec_turnedAwayBusy rfl, exec_turnedAwayUnseeded rfl,
    (decode_eq_ok_iff_maskMatch _ _).mpr ⟨rfl, trivial⟩⟩
  rw [(Completes.lstep idle seeded).exec_eq, complete_eq, word_bit, idle]
  simp [busyField]

end Sys2Proof.Machine
end

section
/-! SUPPORT and PROOFS of the statements on the extractor (spec/41_extractor.md): the two halves of a pair as whole
next states, the pair function position by position, and the obligations O24, O25 and O49. -/
namespace Sys2Proof.Machine

/-! ## `EXT` and `EFLUSH` with no request active -/

section
variable {s : State}

/-- `EXT` with no request active: what `vn_feed` makes of the bit (R122). -/
theorem exec_ext_idle (idle : s.regs.busy = false) (b : Bit) :
    exec (.ext b) s = .next (s.After
      { s.regs with
        pv := (vnFeed s.regs.pv s.regs.pb b).1, pb := (vnFeed s.regs.pv s.regs.pb b).2.1 }
      (outputField (vnFeed s.regs.pv s.regs.pb b).2.2)) := by
  rw [(Completes.ext b idle).exec_eq, complete_eq, word_emit, idle]
  exact next_after_congr rfl BitVec.zero_or

/-- The first bit of a pair is stored. -/
theorem exec_ext_first (idle : s.regs.busy = false) (empty : s.regs.pv = false) (b : Bit) :
    exec (.ext b) s = .next (s.After { s.regs with pv := true, pb := b } (outputField none)) := by
  simp only [exec_ext_idle idle, empty, vnFeed_first]

/-- The second bit ends the pair. -/
theorem exec_ext_second (idle : s.regs.busy = false) (pending : s.regs.pv = true) (b : Bit) :
    exec (.ext b) s = .next (s.After s.regs.clearPair
      (outputField (if s.regs.pb = b then none else some s.regs.pb))) := by
  simp only [exec_ext_idle idle, pending, vnFeed_second, Regs.clearPair]

theorem exec_eflush_idle (idle : s.regs.busy = false) :
    exec .eflush s = .next (s.After s.regs.clearPair (outputField none)) := by
  rw [(Completes.eflush idle).exec_eq, complete_eq, word_ok, Regs.clearPair_busy, idle]
  rfl

end

/-! ## A sequence of `EXT`, pair by pair -/

/-- A response that carries an output bit or none adds that bit or none to the output (R53). -/
@[simp] theorem outputBits_outputField (o : Option Bit) (ws : List Word) :
    outputBits (outputField o :: ws) = o.toList ++ outputBits ws := by
  rcases o with _ | _ | _ <;> rfl

/-- One pair gives its first bit if its bits differ. -/
theorem extractPairs_pair (a b : Bit) (rest : List Bit) :
    extractPairs (a :: b :: rest) = (if a = b then none else some a).toList ++ extractPairs rest := by
  rw [extractPairs]
  split <;> rfl

/-- Two `EXT` run one pair: they return what it gives and leave the pair register clear (R122). -/
theorem execAll_ext_pair {s : State} (idle : s.regs.busy = false) (empty : s.regs.pv = false) (a b : Bit)
    (is : List Instr) :
    ∃ t, execAll (.ext a :: .ext b :: is) s = execAll is t ∧ t.regs = s.regs.clearPair ∧
      t.rsp = s.rsp ++ [outputField none, outputField (if a = b then none else some a)] := by
  have first := exec_ext_first idle empty a
  have second := exec_ext_second (s := s.After { s.regs with pv := true, pb := a } (outputField none)) idle rfl b
  exact ⟨_, (execAll_cons first _).trans (execAll_cons second _), rfl, List.append_assoc ..⟩

/-- `EXT` over a bit sequence and then `EFLUSH` delivers the pair function of it and clears the pair (R124): two
commands are one pair, and an unpaired last bit is what `EFLUSH` drops. -/
theorem execAll_ext_eflush (xs : List Bit) {s : State} (idle : s.regs.busy = false)
    (empty : s.regs.pv = false) :
    ∃ t ws, execAll (xs.map .ext ++ [.eflush]) s = .next t ∧ t.regs = s.regs.clearPair ∧
      t.rsp = s.rsp ++ ws ∧ outputBits ws = extractPairs xs := by
  match xs with
  | [] => exact ⟨_, _, execAll_cons (exec_eflush_idle idle) [], rfl, rfl, rfl⟩
  | [a] =>
    have first := exec_ext_first idle empty a
    have flush := exec_eflush_idle (s := s.After { s.regs with pv := true, pb := a } (outputField none)) idle
    exact ⟨_, [_, _], (execAll_cons first _).trans (execAll_cons flush []), rfl, List.append_assoc .., rfl⟩
  | a :: b :: rest =>
    obtain ⟨u, pair, uregs, ursp⟩ := execAll_ext_pair idle empty a b (rest.map .ext ++ [.eflush])
    obtain ⟨t, ws, run, tregs, trsp, bits⟩ :=
      execAll_ext_eflush rest (s := u) (by simpa [uregs] using idle) (by simp [uregs])
    have regs : t.regs = s.regs.clearPair := by rw [tregs, uregs]; rfl
    have rsp := trsp.trans (congrArg (· ++ ws) ursp)
    exact ⟨t, _, pair.trans run, regs, rsp.trans (List.append_assoc ..),
      by simp [extractPairs_pair, bits]⟩

/-! ## The pair function, position by position -/

/-- What the pair at positions (2k, 2k+1) gives (R124). -/
def pairSurvivor (xs : List Bit) (k : Nat) : Option Bit :=
  if xs.getD (2 * k) false ≠ xs.getD (2 * k + 1) false then some (xs.getD (2 * k) false) else none

theorem pairSurvivor_zero (a b : Bit) (rest : List Bit) :
    pairSurvivor (a :: b :: rest) 0 = if a = b then none else some a :=
  ite_not ..

theorem pairSurvivor_comp_succ (a b : Bit) (rest : List Bit) :
    pairSurvivor (a :: b :: rest) ∘ Nat.succ = pairSurvivor rest := rfl

/-- `extractPairs` is the formula of R124. -/
theorem extractPairs_eq_filterMap (xs : List Bit) :
    extractPairs xs = (List.range (xs.length / 2)).filterMap (pairSurvivor xs) := by
  match xs with
  | [] => rfl
  | [_] => simp [extractPairs]
  | a :: b :: rest =>
    have pairs : (a :: b :: rest).length / 2 = rest.length / 2 + 1 := Nat.add_div_right _ two_pos
    rw [pairs, List.range_succ_eq_map, List.filterMap_cons, List.filterMap_map, pairSurvivor_zero,
      pairSurvivor_comp_succ, extractPairs_pair, extractPairs_eq_filterMap rest]
    cases (if a = b then none else some a) <;> rfl

/-! ## The obligations on the extractor -/

/-- Settles O24, from the two halves of a pair. -/
theorem extPairsBits : Obligations.ExtPairsBits := by
  intro b s
  refine ⟨fun idle empty => exec_ext_first idle empty b, fun idle pending => exec_ext_second idle pending b,
    exec_turnedAwayBusy rfl, (decode_eq_ok_iff_maskMatch _ _).mpr ?_⟩
  cases b <;> exact ⟨rfl, rfl⟩

/-- Settles O25, from the two ways of `EFLUSH`. -/
theorem eflushDiscardsThePendingBit : Obligations.EflushDiscardsThePendingBit :=
  fun _ => ⟨exec_eflush_idle, exec_turnedAwayBusy rfl, (decode_eq_ok_iff_maskMatch _ _).mpr ⟨rfl, trivial⟩⟩

/-- Settles O49: the run delivers `extractPairs`, which is the formula of R124 and keeps the bound of R125. -/
theorem extractorStreamIsThePairFunction : Obligations.ExtractorStreamIsThePairFunction := by
  intro xs s idle empty
  obtain ⟨t, ws, run, regs, rsp, bits⟩ := execAll_ext_eflush xs idle empty
  have delivered : newOutputs s t = extractPairs xs := by rw [newOutputs, newResponses_append s t ws rsp, bits]
  refine ⟨t, run, ?_, ?_, regs⟩
  · exact delivered.trans (extractPairs_eq_filterMap xs)
  · exact delivered ▸ extractPairs_length xs

end Sys2Proof.Machine
end

section
/-! SUPPORT and PROOFS of the statements on the XOR-combine datapath (spec/42_combine.md): `RAW` as a whole next
state, the raw bits as a zip of two streams, a sequence of `RAW`, and the obligations O23 and O50. -/
namespace Sys2Proof.Machine

/-! ## The raw bits, position by position -/

/-- The outputs after the first are those of the next state (R101). -/
theorem lfsrOut_succ (s : Half) (t : Nat) : lfsrOut s (t + 1) = lfsrOut (lfsrNext s).1 t := by
  rw [lfsrOut, lfsrState_succ, lfsrOut]

/-- Raw bit i is LFSR output bit i xor chaotic bit i (R140). -/
theorem rawBits_eq_zipWith (s : Half) (cs : List Bit) :
    rawBits s cs = List.zipWith xor ((List.range cs.length).map (lfsrOut s)) cs := by
  induction cs generalizing s with
  | nil => rfl
  | cons c cs ih =>
    have later : lfsrOut s ∘ Nat.succ = lfsrOut (lfsrNext s).1 := funext (lfsrOut_succ s)
    rw [rawBits, combine_state, ih, List.length_cons, List.range_succ_eq_map, List.map_cons, List.map_map, later]
    rfl

/-! ## `RAW` and a sequence of `RAW` -/

/-- `RAW` with a generator and no request active: one raw bit, counted (R141). -/
theorem exec_raw_ready {s : State} (ready : s.Ready) (c : Bit) :
    exec (.raw c) s =
      .next (s.After s.regs.countRaw (outputField (some (combine s.regs.lfsr c).2))) := by
  obtain ⟨idle, seeded⟩ := ready
  rw [(Completes.raw c idle seeded).exec_eq, complete_eq, word_bit, Regs.countRaw_busy, idle]
  exact next_after_congr rfl BitVec.zero_or

/-- The registers after `n` raw bits. -/
def Regs.countRaws (r : Regs) (n : Nat) : Regs :=
  { r with lfsr := lfsrState r.lfsr n, rawcnt := r.rawcnt + BitVec.ofNat 32 n }

theorem Regs.countRaws_zero (r : Regs) : r.countRaws 0 = r := by
  simp [Regs.countRaws, lfsrState]

theorem Regs.countRaws_succ (r : Regs) (n : Nat) : r.countRaws (n + 1) = r.countRaw.countRaws n := by
  have count : r.rawcnt + BitVec.ofNat 32 (n + 1) = r.rawcnt + 1 + BitVec.ofNat 32 n := by
    rw [Nat.add_comm, BitVec.ofNat_add, BitVec.add_assoc]
    rfl
  rw [Regs.countRaws, lfsrState_succ, count]
  rfl

/-- The responses that carry these output bits, one each. -/
def bitResponses (bits : List Bit) : List Word := bits.map fun b => outputField (some b)

@[simp] theorem outputBits_bitResponses (bits : List Bit) : outputBits (bitResponses bits) = bits := by
  induction bits with
  | nil => rfl
  | cons b bits ih => exact (outputBits_outputField (some b) _).trans (congrArg (b :: ·) ih)

/-- `RAW` over chaotic bits, as a whole next state: the raw bits of R143 in order, all of them counted. -/
theorem execAll_raw (cs : List Bit) {s : State} (ready : s.Ready) :
    execAll (cs.map .raw) s = .next
      { s with
        regs := s.regs.countRaws cs.length,
        rsp := s.rsp ++ bitResponses (rawBits s.regs.lfsr cs) } := by
  induction cs generalizing s with
  | nil => simp [Regs.countRaws_zero, rawBits, bitResponses]
  | cons c cs ih =>
    rw [List.map_cons, execAll_cons (exec_raw_ready ready c), ih]
    · simp [Regs.countRaws_succ, rawBits, bitResponses, State.After]
    · exact ready

/-! ## The obligations on the combine datapath -/

/-- Settles O23, from the three ways of `RAW`. -/
theorem rawReturnsTheCombinedBit : Obligations.RawReturnsTheCombinedBit := by
  intro c s
  refine ⟨fun idle seeded => exec_raw_ready ⟨idle, seeded⟩ c, exec_turnedAwayBusy rfl,
    exec_turnedAwayUnseeded rfl, (decode_eq_ok_iff_maskMatch _ _).mpr ?_⟩
  cases c <;> exact ⟨rfl, rfl⟩

/-- Settles O50: the run delivers `rawBits`, which is the zip of R140. -/
theorem rawStreamIsTheXorOfTheStreams : Obligations.RawStreamIsTheXorOfTheStreams := by
  intro cs s ready
  refine ⟨_, execAll_raw cs ready, ?_, rfl⟩
  rw [newOutputs, newResponses_append s _ _ rfl, outputBits_bitResponses, rawBits_eq_zipWith]

end Sys2Proof.Machine
end

section
/-! SUPPORT and PROOFS of the statements on the balanced-bit sequencer (spec/43_balanced.md): the responses of a
request, one `BSTEP` inside a batch, the `BSTEP`s of one batch, those of a whole request beside the document's
function, and the obligations O26, O27, O28 and O51. -/
namespace Sys2Proof.Machine

/-! ## The responses of a request -/

/-- The response of a `BSTEP` after which the request is still active, with the bit delivered (R162). -/
def activeResponse (o : Option Bit) : Word := 0x8 ||| outputField o

/-- The response of the `BSTEP` that completes the request (R162). -/
def doneResponse (o : Option Bit) : Word := 0x4 ||| outputField o

theorem word_emit_active (o : Option Bit) : (Response.emit o).word true = activeResponse o := word_emit o true

theorem word_emit_done_idle (o : Option Bit) :
    ({ Response.emit o with done := true } : Response).word false = doneResponse o :=
  (word_emit_done o false).trans (congrArg (0x4 ||| ·) BitVec.zero_or)

@[simp] theorem rspDone_activeResponse (o : Option Bit) : rspDone (activeResponse o) = false := by
  rw [← word_emit_active, rspDone_word, emit_done]

@[simp] theorem rspDone_doneResponse (o : Option Bit) : rspDone (doneResponse o) = true := by
  rw [← word_emit_done_idle, rspDone_word]

@[simp] theorem rspSt_activeResponse (o : Option Bit) : rspSt (activeResponse o) = 0 := by
  rw [← word_emit_active, rspSt_word, emit_st, Status.code]

@[simp] theorem rspSt_doneResponse (o : Option Bit) : rspSt (doneResponse o) = 0 := by
  rw [← word_emit_done_idle, rspSt_word, emit_st, Status.code]

@[simp] theorem outputBits_activeResponse (o : Option Bit) (ws : List Word) :
    outputBits (activeResponse o :: ws) = o.toList ++ outputBits ws := by
  rcases o with _ | _ | _ <;> rfl

@[simp] theorem outputBits_doneResponse (o : Option Bit) (ws : List Word) :
    outputBits (doneResponse o :: ws) = o.toList ++ outputBits ws := by
  rcases o with _ | _ | _ <;> rfl

theorem toList_append_reduceOption (o : Option Bit) (os : List (Option Bit)) :
    o.toList ++ os.reduceOption = (o :: os).reduceOption := by
  cases o <;> simp

/-- The output of a request is what its `BSTEP`s delivered (R53). -/
theorem outputBits_request (os : List (Option Bit)) (o : Option Bit) :
    outputBits (os.map activeResponse ++ [doneResponse o]) = (os ++ [o]).reduceOption := by
  induction os with
  | nil => cases o <;> simp
  | cons p os ih =>
    rw [List.map_cons, List.cons_append, outputBits_activeResponse, ih, toList_append_reduceOption,
      List.cons_append]

/-! ## The extractor, one bit at a time -/

/-- The bits of the current pair that the extractor holds (R24). -/
def pendingBits (pv pb : Bit) : List Bit := if pv then [pb] else []

/-- `vn_feed` is the pair function fed one bit at a time, from any half pair (R120, R124). -/
theorem extractPairs_vnFeed (pv pb b : Bit) (xs : List Bit) :
    extractPairs (pendingBits pv pb ++ b :: xs) =
      (vnFeed pv pb b).2.2.toList ++
        extractPairs (pendingBits (vnFeed pv pb b).1 (vnFeed pv pb b).2.1 ++ xs) := by
  cases pv with
  | false => simp [pendingBits]
  | true => simpa [pendingBits] using extractPairs_pair pb b xs

/-- An unpaired bit gives nothing. -/
theorem extractPairs_pendingBits (pv pb : Bit) : extractPairs (pendingBits pv pb) = [] := by
  cases pv <;> rfl

/-! ## One `BSTEP` -/

/-- A delivered bit is counted by `COLL` without overflow, since none is delivered at `REQ` (R28). -/
theorem takeRaw_coll_toNat (r : Regs) (c : Bit) :
    (r.takeRaw c).coll.toNat = r.coll.toNat + (r.delivered c).toList.length := by
  have := r.req.isLt
  rw [Regs.takeRaw_coll]
  cases h : r.delivered c with
  | none => simp [Bit.toHalf]
  | some b =>
    have room : r.coll.toNat < r.req.toNat := by
      by_contra full
      simp [Regs.delivered, BitVec.lt_def, full] at h
    simp only [Option.isSome_some, Bit.toHalf, if_true, Option.toList_some, List.length_singleton,
      BitVec.toNat_add]
    exact Nat.mod_eq_of_lt (by simp; omega)

/-- What the extractor makes of the next raw bit, in the registers' own terms. -/
theorem feedRaw_eq (r : Regs) (c : Bit) :
    (r.feedRaw c).1 = !r.pv ∧ (r.feedRaw c).2.1 = if r.pv then false else r.nextRaw c := by
  cases h : r.pv <;> simp [Regs.feedRaw, Regs.nextRaw, h]

/-- The registers after a `BSTEP` inside a batch (R162). -/
def Regs.stepInside (r : Regs) (c : Bit) : Regs :=
  { r.takeRaw c with pv := (r.feedRaw c).1, pb := (r.feedRaw c).2.1, bpos := r.bpos + 1 }

/-- The writes of every `BSTEP` of a request, in the registers' own terms. -/
theorem takeRaw_eq (r : Regs) (c : Bit) :
    r.takeRaw c =
      { r with lfsr := (lfsrNext r.lfsr).1, rawcnt := r.rawcnt + 1, coll := r.nextColl c } := by
  rw [← takeRaw_coll_eq]
  rfl

theorem exec_bstep_inside {s : State} (busy : s.regs.busy = true)
    (inside : s.regs.bpos.toNat + 1 < 3 * s.regs.req.toNat) (c : Bit) :
    exec (.bstep c) s = .next (s.After (s.regs.stepInside c) (activeResponse (s.regs.delivered c))) := by
  have notLast : s.regs.bpos + 1 ≠ batchLength s.regs.req :=
    fun last => inside.ne ((bpos_succ_eq_batchLength (by omega)).mp last)
  rw [(Completes.bstepInside c busy notLast).exec_eq, complete_eq, Regs.takeRaw_busy, busy, word_emit_active]
  rfl

/-- `exec_bstep_last` with the batch-end test on numbers. -/
theorem exec_bstep_endBatch {s : State} (busy : s.regs.busy = true)
    (last : s.regs.bpos.toNat + 1 = 3 * s.regs.req.toNat) (c : Bit) :
    exec (.bstep c) s =
      endBatch s (s.regs.takeRaw c).closeBatch (Response.emit (s.regs.delivered c)) :=
  exec_bstep_last busy ((bpos_succ_eq_batchLength (by omega)).mpr last) c

/-! ## The three ends of a batch -/

section
variable {s : State} {r : Regs}

theorem endBatch_done (full : r.coll = r.req) (o : Option Bit) :
    endBatch s r (Response.emit o) = .next (s.After r.finishRequest (doneResponse o)) := by
  rw [endBatch, if_pos full, complete_eq, Regs.finishRequest_busy, word_emit_done_idle]

theorem endBatch_exhausted (short : r.coll ≠ r.req) (bounded : s.cfg.maxBatches ≠ 0)
    (spent : r.batches = s.cfg.maxBatches) (o : Option Bit) :
    endBatch s r (Response.emit o) =
      .next (s.After ({ r with busy := false }.setErr .exhausted) (0x50 ||| outputField o)) := by
  rw [endBatch, if_neg short, if_pos ((retryExhausted_iff _ _).mpr ⟨bounded, spent⟩), complete_eq,
    word_emit_status]
  exact next_after_congr rfl (congrArg (0x50 ||| ·) BitVec.zero_or)

theorem endBatch_next (busy : r.busy = true) (short : r.coll ≠ r.req)
    (more : s.cfg.maxBatches = 0 ∨ r.batches ≠ s.cfg.maxBatches) (o : Option Bit) :
    endBatch s r (Response.emit o) = .next (s.After r (activeResponse o)) := by
  have notSpent : ¬retryExhausted s.cfg r.batches = true := by
    rwa [retryExhausted_iff, not_and_or, not_not]
  rw [endBatch, if_neg short, if_neg notSpent, complete_eq, busy, word_emit_active]

end

/-! ## The words of `BREQ` and `BSTEP` -/

/-- The IMM field of `BREQ`'s word is its operand (R70, R73). -/
theorem cmdImm_breq (n : Half) : cmdImm (encode (.breq n)) = n := by
  ext k hk
  interval_cases k <;> simp [cmdImm, encode, immField]

theorem decode_encode_breq (n : Half) : decode (encode (.breq n)) = .ok (.breq n) :=
  (decode_eq_ok_iff_maskMatch _ _).mpr ⟨Laws.OwnRow.breq n, (cmdImm_breq n).symm⟩

theorem exec_breq_ready {s : State} (ready : s.Ready) {n : Half} (positive : n ≠ 0) :
    exec (.breq n) s = .next (s.After (s.regs.startRequest n) (activeResponse none)) := by
  obtain ⟨idle, seeded⟩ := ready
  rw [(Completes.breq n idle seeded positive).exec_eq, complete_eq, word_ok]
  rfl

/-! ## The `BSTEP`s of one batch -/

/-- What the raw bits of `cs` give to a request whose registers are `r`: the survivors, paired from the half pair
held, as far as `REQ` asks for them (R160, R162). -/
def Regs.batchOutput (r : Regs) (cs : List Bit) : List Bit :=
  (extractPairs (pendingBits r.pv r.pb ++ rawBits r.lfsr cs)).take (r.req.toNat - r.coll.toNat)

/-- The registers at the end of a batch whose remaining raw bits are those of `cs`, before the stop tests
(R162). -/
def Regs.batchEnd (r : Regs) (cs : List Bit) : Regs :=
  { (r.countRaws cs.length).closeBatch with coll := r.coll + BitVec.ofNat 16 (r.batchOutput cs).length }

@[simp] theorem Regs.batchOutput_nil (r : Regs) : r.batchOutput [] = [] := by
  simp [Regs.batchOutput, rawBits, extractPairs_pendingBits]

/-- Truncation to what `REQ` asks for, one raw bit at a time. -/
theorem take_survivors (r : Regs) (c : Bit) (xs : List Bit) :
    ((r.feedRaw c).2.2.toList ++ xs).take (r.req.toNat - r.coll.toNat) =
      (r.delivered c).toList ++ xs.take (r.req.toNat - (r.takeRaw c).coll.toNat) := by
  rw [takeRaw_coll_toNat]
  by_cases room : r.coll.toNat < r.req.toNat
  · have same : r.delivered c = (r.feedRaw c).2.2 := if_pos room
    have fits : (r.feedRaw c).2.2.toList.length ≤ r.req.toNat - r.coll.toNat :=
      Option.length_toList_le.trans (by omega)
    rw [same, List.take_append, List.take_of_length_le fits, Nat.sub_sub]
  · have surplus : r.delivered c = none := if_neg room
    simp [surplus, Nat.sub_eq_zero_of_le (not_lt.mp room)]

theorem Regs.batchOutput_cons (r : Regs) (c : Bit) (cs : List Bit) :
    r.batchOutput (c :: cs) = (r.delivered c).toList ++ (r.stepInside c).batchOutput cs := by
  rw [Regs.batchOutput, rawBits, extractPairs_vnFeed]
  exact take_survivors r c _

/-- `COLL` counts the bit of one `BSTEP`. -/
theorem coll_add_delivered (r : Regs) (c : Bit) :
    r.coll + BitVec.ofNat 16 (r.delivered c).toList.length = (r.takeRaw c).coll := by
  rw [Regs.takeRaw_coll]
  cases r.delivered c <;> rfl

theorem Regs.batchEnd_singleton (r : Regs) (c : Bit) : r.batchEnd [c] = (r.takeRaw c).closeBatch := by
  rw [Regs.batchEnd, Regs.batchOutput_cons, Regs.batchOutput_nil, List.append_nil, coll_add_delivered]
  rfl

theorem Regs.batchEnd_cons (r : Regs) (c : Bit) (cs : List Bit) :
    r.batchEnd (c :: cs) = (r.stepInside c).batchEnd cs := by
  rw [Regs.batchEnd, Regs.batchOutput_cons, List.length_append, BitVec.ofNat_add, ← BitVec.add_assoc,
    coll_add_delivered, List.length_cons, Regs.countRaws_succ]
  rfl

/-- `BPOS` counts inside a batch without overflow (R29). -/
theorem stepInside_bpos {r : Regs} (inside : r.bpos.toNat + 1 < 3 * r.req.toNat) (c : Bit) :
    (r.stepInside c).bpos.toNat = r.bpos.toNat + 1 := by
  have := r.req.isLt
  have one : (1 : Pos).toNat = 1 := rfl
  rw [Regs.stepInside, BitVec.toNat_add, one]
  omega

theorem execAll_singleton (i : Instr) (s : State) : execAll [i] s = exec i s := by
  obtain ⟨r, w, h⟩ := exec_after i s
  rw [h, execAll_cons h, execAll_nil]

/-- `s` after these responses were returned. -/
def State.returning (s : State) (ws : List Word) : State := { s with rsp := s.rsp ++ ws }

/-- The `BSTEP`s that complete a batch deliver `batchOutput`, one response each, and go to the stop tests with
`batchEnd` (R162). -/
theorem execAll_bstep_batch (c : Bit) (cs : List Bit) {s : State} (busy : s.regs.busy = true)
    (room : s.regs.bpos.toNat + (cs.length + 1) = 3 * s.regs.req.toNat) :
    ∃ os o, os.length = cs.length ∧ (os ++ [o]).reduceOption = s.regs.batchOutput (c :: cs) ∧
      execAll ((c :: cs).map .bstep) s =
        endBatch (s.returning (os.map activeResponse)) (s.regs.batchEnd (c :: cs))
          (Response.emit o) := by
  induction cs generalizing c s with
  | nil =>
    refine ⟨[], s.regs.delivered c, rfl, ?_, ?_⟩
    · rw [Regs.batchOutput_cons, Regs.batchOutput_nil]
      exact (toList_append_reduceOption _ []).symm
    · rw [List.map_singleton, execAll_singleton, exec_bstep_endBatch busy room,
        Regs.batchEnd_singleton, List.map_nil, State.returning, List.append_nil]
  | cons d ds ih =>
    have inside : s.regs.bpos.toNat + 1 < 3 * s.regs.req.toNat := by
      rw [List.length_cons] at room
      omega
    have first := exec_bstep_inside busy inside c
    obtain ⟨os, o, len, out, run⟩ :=
      ih d (s := s.After (s.regs.stepInside c) (activeResponse (s.regs.delivered c))) busy (by
        rw [State.after_regs, stepInside_bpos inside]
        rw [List.length_cons] at room
        show _ = 3 * s.regs.req.toNat
        omega)
    refine ⟨s.regs.delivered c :: os, o, congrArg (· + 1) len, ?_, ?_⟩
    · rw [Regs.batchOutput_cons, List.cons_append, ← toList_append_reduceOption, out]
      rfl
    · rw [List.map_cons, execAll_cons first, run, Regs.batchEnd_cons s.regs]
      simp only [State.returning, State.after_rsp, List.append_assoc, List.map_cons, List.singleton_append]
      rfl

/-! ## The document's function -/

section
variable {c fuel done : Nat} {buffer : List Bit} (l : Half) (cs : List Bit)

theorem generateBalanced_full (full : c ≤ buffer.length) :
    generateBalanced c fuel done buffer l cs = some ⟨buffer.take c, done, l⟩ := by
  cases fuel <;> exact if_neg full.not_gt

theorem generateBalanced_spent (short : buffer.length < c) : generateBalanced c 0 done buffer l cs = none :=
  if_pos short

theorem generateBalanced_more (short : buffer.length < c) :
    generateBalanced c (fuel + 1) done buffer l cs =
      generateBalanced c fuel (done + 1) (buffer ++ batchSurvivors l (cs.take (kOver * c)))
        (lfsrState l (kOver * c)) (cs.drop (kOver * c)) :=
  if_pos short

end

/-- What the document's function returns: `c` bits, and the LFSR after the raw bits of its batches (R160). -/
theorem generateBalanced_returns {c fuel done : Nat} {buffer cs : List Bit} {l : Half} {out : Balanced}
    (returns : generateBalanced c fuel done buffer l cs = some out) :
    out.bits.length = c ∧ ∃ n, out.batches = done + n ∧ out.lfsr = lfsrState l (kOver * c * n) := by
  rcases lt_or_ge buffer.length c with short | full
  · cases fuel with
    | zero =>
      rw [generateBalanced_spent l cs short] at returns
      cases returns
    | succ fuel =>
      rw [generateBalanced_more l cs short] at returns
      obtain ⟨bits, n, batches, lfsr⟩ := generateBalanced_returns returns
      refine ⟨bits, n + 1, by rw [batches, Nat.add_assoc, Nat.add_comm 1], ?_⟩
      rw [lfsr, ← lfsrState_add, Nat.mul_succ, Nat.add_comm]
  · rw [generateBalanced_full l cs full] at returns
    cases returns
    exact ⟨List.length_take_of_le full, 0, rfl, rfl⟩

/-! ## The `BSTEP`s of a request -/

theorem Regs.countRaws_add (r : Regs) (m n : Nat) : (r.countRaws m).countRaws n = r.countRaws (m + n) := by
  simp only [Regs.countRaws, lfsrState_add, BitVec.ofNat_add, BitVec.add_assoc]

/-- The registers of a request for `c` bits, begun in the registers `r`, when `done` batches are complete and have
delivered `got` bits. -/
def Regs.requestAt (r : Regs) (c : Half) (done got : Nat) : Regs :=
  { (r.countRaws (kOver * c.toNat * done)).startRequest c with
    coll := BitVec.ofNat 16 got, batches := BitVec.ofNat 16 done }

theorem Regs.startRequest_eq_requestAt (r : Regs) (c : Half) : r.startRequest c = r.requestAt c 0 0 := by
  rw [Regs.requestAt, Nat.mul_zero, Regs.countRaws_zero]
  rfl

section
variable (r : Regs) (c : Half) {done got : Nat} (cs : List Bit)

theorem Regs.requestAt_coll (short : got < c.toNat) : (r.requestAt c done got).coll.toNat = got := by
  have := c.isLt
  exact Nat.mod_eq_of_lt (by omega)

theorem Regs.requestAt_incomplete (short : got < c.toNat) : (r.requestAt c done got).coll ≠ c := by
  rw [Ne, ← BitVec.toNat_inj, Regs.requestAt_coll r c short]
  exact short.ne

theorem Regs.requestAt_complete : (r.requestAt c done c.toNat).coll = c := BitVec.ofNat_toNat ..

/-- A batch of a request is paired afresh (R160). -/
theorem Regs.requestAt_batchOutput (short : got < c.toNat) :
    (r.requestAt c done got).batchOutput cs =
      (batchSurvivors (lfsrState r.lfsr (kOver * c.toNat * done)) cs).take (c.toNat - got) := by
  rw [Regs.batchOutput, Regs.requestAt_coll r c short]
  rfl

theorem Regs.requestAt_batchEnd (whole : cs.length = kOver * c.toNat) :
    (r.requestAt c done got).batchEnd cs =
      r.requestAt c (done + 1) (got + ((r.requestAt c done got).batchOutput cs).length) := by
  conv_rhs => rw [Regs.requestAt, BitVec.ofNat_add, BitVec.ofNat_add, Nat.mul_succ, ← Regs.countRaws_add]
  rw [Regs.batchEnd, whole]
  rfl

end

/-- Below the bound `BATCHES` is not the bound, even where it wrapped (R30, R162). -/
theorem ofNat_ne_of_lt_of_le {done total : Nat} {bound : Half} (lt : done < total) (le : total ≤ bound.toNat) :
    BitVec.ofNat 16 done ≠ bound := by
  rintro rfl
  rw [BitVec.toNat_ofNat] at le
  exact absurd (Nat.mod_le done (2 ^ 16)) (by omega)

/-- One whole batch of a request delivers its survivors as far as they are asked for, and goes to the stop tests with
one more batch complete. -/
theorem execAll_bstep_requestBatch {r : Regs} {c : Half} {done got : Nat} {cs : List Bit} {s : State}
    (regs : s.regs = r.requestAt c done got) (short : got < c.toNat) (whole : cs.length = kOver * c.toNat) :
    ∃ os o, os.length + 1 = kOver * c.toNat ∧
      (os ++ [o]).reduceOption =
        (batchSurvivors (lfsrState r.lfsr (kOver * c.toNat * done)) cs).take (c.toNat - got) ∧
      execAll (cs.map .bstep) s =
        endBatch (s.returning (os.map activeResponse))
          (r.requestAt c (done + 1) (got + (os ++ [o]).reduceOption.length)) (Response.emit o) := by
  cases cs with
  | nil =>
    rw [List.length_nil, kOver] at whole
    omega
  | cons d ds =>
    obtain ⟨os, o, len, out, run⟩ := execAll_bstep_batch d ds (s := s) (by rw [regs]; rfl) (by
      rw [regs, ← List.length_cons, whole]
      exact Nat.zero_add _)
    rw [regs] at out
    refine ⟨os, o, by rw [len, ← whole, List.length_cons], ?_, ?_⟩
    · rw [out, Regs.requestAt_batchOutput r c _ short]
    · rw [run, regs, Regs.requestAt_batchEnd r c _ whole, ← out]

/-- The `BSTEP`s of a request from the start of a batch on do what the document's function does from there (R160):
the same bits, one batch for each of its batches, and DONE at the end of the last. -/
theorem execAll_bstep_request {r : Regs} {c : Half} {fuel done : Nat} {buffer cs : List Bit} {out : Balanced}
    {s : State} (regs : s.regs = r.requestAt c done buffer.length) (short : buffer.length < c.toNat)
    (enough : kOver * c.toNat * fuel ≤ cs.length)
    (returns : generateBalanced c.toNat fuel done buffer (lfsrState r.lfsr (kOver * c.toNat * done)) cs =
      some out)
    (bound : s.cfg.maxBatches = 0 ∨ out.batches ≤ s.cfg.maxBatches.toNat) :
    ∃ n os o, out.batches = done + (n + 1) ∧ os.length + 1 = kOver * c.toNat * (n + 1) ∧
      buffer ++ (os ++ [o]).reduceOption = out.bits ∧
      execAll ((cs.take (kOver * c.toNat * (n + 1))).map .bstep) s =
        .next ((s.returning (os.map activeResponse)).After
          (r.requestAt c out.batches c.toNat).finishRequest (doneResponse o)) := by
  induction fuel generalizing done buffer cs s with
  | zero =>
    rw [generateBalanced_spent _ _ short] at returns
    cases returns
  | succ fuel ih =>
    rw [Nat.mul_succ] at enough
    rw [generateBalanced_more _ _ short, ← lfsrState_add, ← Nat.mul_succ] at returns
    have whole : (cs.take (kOver * c.toNat)).length = kOver * c.toNat :=
      List.length_take_of_le (by omega)
    obtain ⟨os, o, len, bits, run⟩ := execAll_bstep_requestBatch regs short whole
    generalize batchSurvivors _ (cs.take (kOver * c.toNat)) = survivors at returns bits
    rw [bits] at run
    rcases lt_or_ge (buffer ++ survivors).length c.toNat with more | full
    · have all : survivors.take (c.toNat - buffer.length) = survivors := by
        rw [List.length_append] at more
        exact List.take_of_length_le (by omega)
      rw [all] at bits run
      rw [← List.length_append] at run
      obtain ⟨n, os', o', batches, len', bits', run'⟩ :=
        ih (s := (s.returning (os.map activeResponse)).After
            (r.requestAt c (done + 1) (buffer ++ survivors).length) (activeResponse o)) rfl more
          (by rw [List.length_drop]; omega) returns bound
      have unspent : s.cfg.maxBatches = 0 ∨ BitVec.ofNat 16 (done + 1) ≠ s.cfg.maxBatches :=
        bound.imp_right (ofNat_ne_of_lt_of_le (by omega))
      refine ⟨n + 1, os ++ [o] ++ os', o', by omega, ?_, ?_, ?_⟩
      · rw [List.length_append, List.length_append, List.length_singleton, Nat.mul_succ, ← len']
        omega
      · rw [← bits', ← bits, List.append_assoc (os ++ [o]), List.reduceOption_append, List.append_assoc buffer]
      · have goesOn := run.trans
          (endBatch_next (s := s.returning _) rfl (Regs.requestAt_incomplete r c more) unspent o)
        rw [Nat.mul_succ, Nat.add_comm, List.take_add, List.map_append, execAll_append goesOn, run']
        simp [State.returning, State.After]
    · rw [generateBalanced_full _ _ full] at returns
      cases returns
      have count : buffer.length + (survivors.take (c.toNat - buffer.length)).length = c.toNat := by
        rw [List.length_append] at full
        rw [List.length_take_of_le (by omega)]
        omega
      refine ⟨0, os, o, rfl, by rw [len, Nat.mul_one], ?_, ?_⟩
      · rw [bits, List.take_append, List.take_of_length_le short.le]
      · rw [Nat.mul_one, run, count, endBatch_done (Regs.requestAt_complete r c)]

/-- `BREQ c` and its `BSTEP`s where the document's function returns: their responses and the registers they leave
(R160, R168). -/
theorem execAll_breq_bsteps {c : Half} {fuel : Nat} {cs : List Bit} {out : Balanced} {s : State}
    (ready : s.Ready) (positive : c ≠ 0) (enough : kOver * c.toNat * fuel ≤ cs.length)
    (returns : generateBalanced c.toNat fuel 0 [] s.regs.lfsr cs = some out)
    (bound : s.cfg.maxBatches = 0 ∨ out.batches ≤ s.cfg.maxBatches.toNat) :
    1 ≤ out.batches ∧ ∃ os o t, os.length = kOver * c.toNat * out.batches ∧
      (os ++ [o]).reduceOption = out.bits ∧
      execAll (.breq c :: (cs.take (kOver * c.toNat * out.batches)).map .bstep) s = .next t ∧
      newResponses s t = os.map activeResponse ++ [doneResponse o] ∧
      t.regs = (s.regs.requestAt c out.batches c.toNat).finishRequest := by
  have first := exec_breq_ready ready positive
  rw [Regs.startRequest_eq_requestAt] at first
  obtain ⟨n, os, o, batches, len, bits, run⟩ :=
    execAll_bstep_request (s := s.After (s.regs.requestAt c 0 0) (activeResponse none)) (buffer := []) rfl
      (Nat.pos_of_ne_zero fun zero => positive (BitVec.eq_of_toNat_eq zero)) enough returns bound
  rw [Nat.zero_add] at batches
  rw [← batches] at len run
  refine ⟨by omega, none :: os, o, _, len, bits, (execAll_cons first _).trans run, ?_, rfl⟩
  exact newResponses_append s _ _ (by simp [State.returning])

/-! ## The obligations on the sequencer -/

/-- Settles O26, from the ways of `BREQ`. -/
theorem breqStartsARequest : Obligations.BreqStartsARequest := by
  intro n s
  refine ⟨fun idle seeded positive => exec_breq_ready ⟨idle, seeded⟩ positive, fun idle seeded => ?_,
    exec_turnedAwayBusy rfl, exec_turnedAwayUnseeded rfl, decode_encode_breq n⟩
  rw [(Completes.breqZero idle seeded).exec_eq, complete_eq, word_done, idle]
  rfl

/-- Settles O27, from `BSTEP` with no request, inside a batch and at the three ends of a batch. -/
theorem bstepConsumesARawBit : Obligations.BstepConsumesARawBit := by
  intro c s
  refine ⟨fun idle => ?_, fun busy inside => ?_, fun busy last full => ?_,
    fun busy last short bounded spent => ?_, fun busy last short more => ?_,
    (decode_eq_ok_iff_maskMatch _ _).mpr ?_⟩
  · rw [(Completes.bstepIdle c idle).exec_eq, complete_eq, word_error, Regs.setErr_busy, idle]
    rfl
  · obtain ⟨pv, pb⟩ := feedRaw_eq s.regs c
    rw [exec_bstep_inside busy inside, Regs.stepInside, takeRaw_eq, pv, pb, delivered_eq_nextOut]
    rfl
  · rw [exec_bstep_endBatch busy last, takeRaw_eq, endBatch_done full, delivered_eq_nextOut, full]
    rfl
  · rw [exec_bstep_endBatch busy last, takeRaw_eq, endBatch_exhausted short bounded spent,
      delivered_eq_nextOut]
    rfl
  · rw [exec_bstep_endBatch busy last, takeRaw_eq, endBatch_next ?_ short more, delivered_eq_nextOut]
    · rfl
    · exact busy
  · cases c <;> exact ⟨rfl, rfl⟩

/-- Settles O28, from the two ways of `BABORT`. -/
theorem babortCancelsTheRequest : Obligations.BabortCancelsTheRequest := by
  intro s
  refine ⟨fun busy => ?_, fun idle => ?_, (decode_eq_ok_iff_maskMatch _ _).mpr ⟨rfl, trivial⟩⟩
  · rw [(Completes.babort busy).exec_eq, complete_eq, word_ok]
    rfl
  · rw [(Completes.babortIdle idle).exec_eq, complete_eq, word_ok, idle]
    rfl

/-- Settles O51: the run of the request beside what the document's function returns. -/
theorem sequencerProducesTheDocumentsBits : Obligations.SequencerProducesTheDocumentsBits := by
  intro c fuel cs out s ready positive enough returns bound
  obtain ⟨length, n, batches, lfsr⟩ := generateBalanced_returns returns
  obtain rfl : out.batches = n := batches.trans (Nat.zero_add n)
  obtain ⟨one, os, o, t, len, bits, run, responses, regs⟩ :=
    execAll_breq_bsteps ready positive enough returns bound
  refine ⟨t, run, ?_, length, one, ?_, ?_, lfsr, ?_⟩
  · rw [newOutputs, responses, outputBits_request, bits]
  · rw [responses, ← len]
    simp [Function.comp_def, List.map_const']
  · rw [responses]
    simp [or_imp, forall_and]
  · rw [regs, lfsr, Regs.requestAt, BitVec.ofNat_toNat, BitVec.setWidth_eq]
    rfl

end Sys2Proof.Machine
end

section
/-! PROOFS of the statements on the control commands (spec/44_control.md): the obligation O20. -/
namespace Sys2Proof.Machine

/-- Settles O20, from the one way of `NOP`. -/
theorem nopOnlyResponds : Obligations.NopOnlyResponds := by
  refine ⟨fun s => ?_, (decode_eq_ok_iff_maskMatch _ _).mpr ⟨rfl, trivial⟩⟩
  rw [Completes.nop.exec_eq, complete_eq, word_ok]

end Sys2Proof.Machine
end

section
/-! SUPPORT and PROOFS of the statements on errors and responses (spec/60_exceptions.md): a command that reports an
error is a command turned away, and the obligation O32. -/
namespace Sys2Proof.Machine

/-! ## Commands that report an error -/

section
variable {s t : State} {c w : Word} {i : Instr} {r : Regs} {x : Response} {e : Status}

/-- Whatever way reports a code other than OK and EXHAUSTED is the way of a command turned away. -/
theorem Completes.turnedAway (h : Completes s i r x) (notOk : x.st ≠ .ok) (notExhausted : x.st ≠ .exhausted) :
    r = s.regs.setErr x.st ∧ x = { st := x.st } := by
  cases h with
  | turnedAwayBusy | turnedAwayUnseeded | bstepIdle | rdregReserved => exact ⟨rfl, rfl⟩
  | bstepExhausted => exact absurd rfl notExhausted
  | _ => exact absurd rfl notOk

/-- The same of a command word: an illegal one is turned away too (R75). -/
theorem takeCommand_turnedAway (c : Word) (s : State) :
    ∃ r x, takeCommand c s = complete s r x ∧
      (x.st ≠ .ok → x.st ≠ .exhausted → r = s.regs.setErr x.st ∧ x = { st := x.st }) := by
  rcases takeCommand_eq_complete c s with ⟨i, r, x, -, hc, he⟩ | ⟨-, he⟩
  · exact ⟨r, x, he, hc.turnedAway⟩
  · exact ⟨_, _, he, fun _ _ => ⟨rfl, rfl⟩⟩

/-- The only command words that report such a code are those that raise it (R7, R221). -/
theorem takeCommand_eq_raiseError (h : takeCommand c s = .next t) (hw : t.rsp = s.rsp ++ [w])
    (reports : rspSt w = e.code) (notOk : e ≠ .ok) (notExhausted : e ≠ .exhausted) :
    takeCommand c s = raiseError e s := by
  obtain ⟨r, x, he, away⟩ := takeCommand_turnedAway c s
  obtain rfl : s.After r (x.word r.busy) = t := by simpa [he] using h
  obtain rfl : x.word r.busy = w := by simpa using hw
  obtain rfl : x.st = e := by simpa using reports
  obtain ⟨hr, hx⟩ := away notOk notExhausted
  rw [he, raiseError, ← hr, ← hx]

/-- Raising an error, with its sticky bit and its response word written out (R31, R71, R221). -/
theorem raiseError_eq_after (s : State) (notOk : e ≠ .ok) :
    raiseError e s = .next (s.After { s.regs with errs := s.regs.errs ||| 1#5 <<< (e.code.toNat - 1) }
      (e.code.setWidth 32 <<< 4 ||| busyField s.regs.busy)) := by
  have hcode : e.code ≠ 0 := mt (Status.code_inj (e := .ok)).mp notOk
  rw [raiseError_eq, word_error, Regs.setErr, or_errBit_eq, if_neg hcode]

/-- A response with such a code consumes no chaotic bit, whatever the command (R257). -/
theorem chaosConsumed_of_error (i : Instr) (reports : rspSt w = e.code) (notOk : e ≠ .ok)
    (notExhausted : e ≠ .exhausted) : chaosConsumed i w = 0 := by
  have spent : ¬(rspSt w = Status.ok.code ∨ rspSt w = Status.exhausted.code) := by
    simp [reports, notOk, notExhausted]
  cases i with
  | raw | bstep => exact if_neg spent
  | _ => rfl

end

/-! ## The obligation on errors -/

/-- Settles O32: the command raised the error it reports. -/
theorem errorWritesOnlyItsStickyBit : Obligations.ErrorWritesOnlyItsStickyBit := by
  intro c s t w e h hw he reports
  have notOk : e ≠ .ok := by rintro rfl; simp at he
  have notExhausted : e ≠ .exhausted := by rintro rfl; simp at he
  have raised := takeCommand_eq_raiseError h hw reports notOk notExhausted
  rw [h, raiseError_eq_after s notOk] at raised
  exact ⟨Host.Outcome.next.inj raised, fun i _ => chaosConsumed_of_error i reports notOk notExhausted⟩

end Sys2Proof.Machine
end

section
/-! SUPPORT and PROOFS of the statements on reset and hazards (spec/70_reset_and_hazards.md): what a way of a command
reports, the selectors that `RDREG` reads, and the obligations O11 and O47. -/
namespace Sys2Proof.Machine

/-- The status that a way of `Completes` reports, as the host sees it at the port `rsp` (R71, R220). -/
theorem Completes.reports {s : State} {i : Instr} {r : Regs} {x : Response} (h : Completes s i r x) :
    ∃ t w, exec i s = .next t ∧ t.rsp = s.rsp ++ [w] ∧ rspSt w = x.st.code :=
  ⟨_, _, h.exec_eq, rfl, rspSt_word x r.busy⟩

/-- The rows of R33 are numbered 0 .. 10: every selector that `Regs.view_reserved` does not speak of reads a value. -/
theorem Regs.exists_view_eq_some (r : Regs) {sel : Sel} (h : sel.toNat ≤ 10) : ∃ v, r.view sel = some v := by
  have numbers : r.selectorRows.map Prod.fst = List.range 11 := rfl
  have row : sel.toNat ∈ r.selectorRows.map Prod.fst := by
    rw [numbers, List.mem_range]
    omega
  obtain ⟨⟨n, v⟩, mem, rfl : n = sel.toNat⟩ := List.mem_map.mp row
  exact ⟨v, (r.view_eq_some_iff sel v).mpr mem⟩

/-! ## The obligations on reset and hazards -/

/-- Settles O11, by the step that takes a reset. -/
theorem resetInputSetsEveryRegister : Obligations.ResetInputSetsEveryRegister :=
  fun _ _ pending => ⟨_, step_rst pending, rfl, rfl, rfl⟩

/-- Settles O47: an unseeded block is idle (R34 (a)), which fixes the way of every command. -/
theorem commandsBeforeTheFirstSeed : Obligations.CommandsBeforeTheFirstSeed := by
  intro s imm b sel inv unseeded defined
  have idle : s.regs.busy = false := inv.idle_of_unseeded unseeded
  obtain ⟨v, view⟩ := s.regs.exists_view_eq_some defined
  obtain ⟨bstepReportsIdle, -⟩ := bstepConsumesARawBit b s
  have noSeed {i : Instr} (needs : needsSeed i = true) := exec_turnedAwayUnseeded needs idle unseeded
  simp only [List.forall_mem_cons]
  exact ⟨⟨Completes.nop.reports, (Completes.rdreg view).reports, (Completes.ext b idle).reports,
      (Completes.eflush idle).reports, (Completes.babortIdle idle).reports, (Completes.seed imm idle).reports,
      nofun⟩,
    ⟨noSeed rfl, noSeed rfl, noSeed rfl, nofun⟩, bstepReportsIdle idle⟩

end Sys2Proof.Machine
end

section
/-! SUPPORT and PROOFS of the other statements on the encoding (spec/30_encoding.md, spec/20_memory.md sections 2 and
3): a command's word from its mask, its match and its operand, numbers as operands, the byte transport, and the
obligations O1, O2, O5, O6 and O7. -/
namespace Sys2Proof

/-! ## A command's word is its match and its operand -/

/-- The operand that a word of R77 carries is the command's (R73). -/
theorem carriesOperand_encode (i : Instr) : CarriesOperand (encode i) i := by
  cases i with
  | nop | lstep | eflush | babort => trivial
  | seed imm => exact (Machine.cmdImm_immField imm).symm
  | breq n => exact (Machine.cmdImm_breq n).symm
  | raw b | ext b | bstep b => cases b <;> rfl
  | rdreg sel => exact (Machine.cmdSel_selField sel).symm

/-- Every command's word is selected by the command's own row (R72). -/
theorem ownRow_statement (i : Instr) : Laws.OwnRow.Statement i := by
  cases i with
  | nop => exact Laws.OwnRow.nop
  | seed imm => exact Laws.OwnRow.seed imm
  | lstep => exact Laws.OwnRow.lstep
  | raw b => exact Laws.OwnRow.raw b
  | ext b => exact Laws.OwnRow.ext b
  | eflush => exact Laws.OwnRow.eflush
  | breq n => exact Laws.OwnRow.breq n
  | bstep b => exact Laws.OwnRow.bstep b
  | babort => exact Laws.OwnRow.babort
  | rdreg sel => exact Laws.OwnRow.rdreg sel

theorem decode_encode (i : Instr) : decode (encode i) = .ok i :=
  (decode_eq_ok_iff_maskMatch _ i).mpr ⟨ownRow_statement i, carriesOperand_encode i⟩

/-- A field put back in its place is the word under the field's mask (R70). -/
theorem fields_in_place (w : Word) :
    immField (cmdImm w) = w &&& ~~~0x0000FFFF ∧ bField (cmdB w) = w &&& ~~~0xFFFFFFEF ∧
      selField (cmdSel w) = w &&& ~~~0xFFFF00FF := by
  refine ⟨BitVec.eq_of_getLsbD_eq fun k hk => ?_, BitVec.eq_of_getLsbD_eq fun k hk => ?_,
    BitVec.eq_of_getLsbD_eq fun k hk => ?_⟩
  · interval_cases k <;> simp [immField, cmdImm]
  · interval_cases k <;> simp [bField, cmdB]
  · interval_cases k <;> simp [selField, cmdSel]

/-- The word of a command whose operand `w` carries: the match of its row, and the bits of `w` that the row does not
check. -/
theorem encode_eq_of_carriesOperand {w : Word} {i : Instr} (operand : CarriesOperand w i) :
    encode i = (w &&& ~~~(Laws.maskMatch i).1) ||| (Laws.maskMatch i).2 := by
  have checked (k : Word) : k = (w &&& ~~~0xFFFFFFFF) ||| k := by simp
  obtain ⟨imm, b, sel⟩ := fields_in_place w
  cases i with
  | nop | lstep | eflush | babort => exact checked _
  | seed | breq => cases operand; exact congrArg (· ||| _) imm
  | raw | ext | bstep => cases operand; exact congrArg (· ||| _) b
  | rdreg => cases operand; exact congrArg (· ||| _) sel

/-! ## Numbers as operands -/

/-- A number above bit `k` beside one below it. -/
theorem ofNat_shiftLeft_or {n k m : Nat} (low : m < 2 ^ k) :
    BitVec.ofNat 32 n <<< k ||| BitVec.ofNat 32 m = BitVec.ofNat 32 (n * 2 ^ k + m) := by
  have shifted : BitVec.ofNat 32 n <<< k = BitVec.ofNat 32 (n <<< k) :=
    BitVec.eq_of_toNat_eq (by simp [Nat.shiftLeft_eq])
  rw [shifted, ← BitVec.ofNat_or, ← Nat.shiftLeft_add_eq_or_of_lt low, Nat.shiftLeft_eq]

/-- The field of a number that its width holds, in a word whose opcode is below bit `k`. -/
theorem field_ofNat {v n k m : Nat} (narrow : v ≤ 32) (fits : n < 2 ^ v) (low : m < 2 ^ k) :
    (BitVec.ofNat v n).setWidth 32 <<< k ||| BitVec.ofNat 32 m = BitVec.ofNat 32 (n * 2 ^ k + m) := by
  rw [← ofNat_shiftLeft_or low, BitVec.setWidth_ofNat_of_le_of_lt narrow fits]

namespace Machine

theorem operand_eq_some {w n : Nat} (fits : n < 2 ^ w) : operand w n = some (BitVec.ofNat w n) := if_pos fits

theorem operand_eq_none {w n : Nat} (large : 2 ^ w ≤ n) : operand w n = none := if_neg large.not_gt

theorem bitOperand_eq_none {n : Nat} (large : 1 < n) : bitOperand n = none := if_neg (by omega)

/-- A statement with a number as its operand assembles to the word with that number in the operand's place. -/
theorem assemble_operand {v n k m : Nat} {command : BitVec v → Instr} (narrow : v ≤ 32)
    (word : ∀ x, encode (command x) = x.setWidth 32 <<< k ||| BitVec.ofNat 32 m) (low : m < 2 ^ k)
    (fits : n < 2 ^ v) :
    ((operand v n).map fun x => [command x]).map (List.map encode) =
      some [BitVec.ofNat 32 (n * 2 ^ k + m)] := by
  simp [operand_eq_some fits, word, field_ofNat narrow fits low]

end Machine

/-! ## The byte transport -/

theorem bytesOfWord_getLsbD (w : Word) {k : Nat} (hk : k < 4) {j : Nat} (hj : j < 8) :
    ((bytesOfWord w).getD k 0).getLsbD j = w.getLsbD (8 * k + j) := by
  interval_cases k <;> simp [bytesOfWord, hj]

theorem wordOfBytes_bytesOfWord (w : Word) : wordOfBytes (bytesOfWord w) = some w := by
  refine congrArg some (BitVec.eq_of_getLsbD_eq fun i hi => ?_)
  simp only [BitVec.getLsbD_append]
  interval_cases i <;> simp

/-- Only four bytes are a word (R54). -/
theorem wordOfBytes_eq_none {bs : List Byte} (partialWord : bs.length ≠ 4) : wordOfBytes bs = none := by
  unfold wordOfBytes
  split
  · exact absurd rfl partialWord
  · rfl

/-! ## The obligations on the encoding -/

/-- Settles O1: a command's word is selected by the command's row and carries its operand. -/
theorem decodeOfEncodeIsTheCommand : Obligations.DecodeOfEncodeIsTheCommand := decode_encode

/-- Settles O2: the bits that the row checks are its match, and the others are the operand. -/
theorem decodedWordIsTheEncoding : Obligations.DecodedWordIsTheEncoding := by
  intro w i h
  obtain ⟨checked, operand⟩ := (decode_eq_ok_iff_maskMatch w i).mp h
  rw [encode_eq_of_carriesOperand operand, ← checked, BitVec.or_comm, ← BitVec.and_or_distrib_left,
    BitVec.or_not_self, BitVec.and_allOnes]

/-- Settles O5, by running the decoder on the words. -/
theorem wordsOfTheSpecDecode : Obligations.WordsOfTheSpecDecode := by
  unfold Obligations.WordsOfTheSpecDecode
  decide

/-- Settles O6, from the two directions of the byte transport. -/
theorem wordsMoveLittleEndian : Obligations.WordsMoveLittleEndian := by
  refine ⟨fun w k hk j hj => bytesOfWord_getLsbD w hk hj, fun w => ⟨rfl, wordOfBytes_bytesOfWord w⟩,
    fun bs partialWord => ?_⟩
  rw [decodeBytes, wordOfBytes_eq_none partialWord]

/-- Settles O7: the operand in its place where it is in range, and no operand where it is not. -/
theorem assemblerChecksOperandRanges : Obligations.AssemblerChecksOperandRanges := by
  intro n
  have bit {command : Bit → Instr} (large : 1 < n) :
      ((Machine.bitOperand n).map fun b => [command b]).map (List.map encode) = none := by
    rw [Machine.bitOperand_eq_none large]
    rfl
  have number {v : Nat} {command : BitVec v → Instr} (large : 2 ^ v ≤ n) :
      ((Machine.operand v n).map fun x => [command x]).map (List.map encode) = none := by
    rw [Machine.operand_eq_none large]
    rfl
  refine ⟨fun h => ?_, fun h => ?_, fun h => ?_, fun h => ?_, fun h => ?_, fun h => ?_, fun h => ?_, fun h => ?_,
    fun h => ?_, fun h => ?_⟩
  · exact Machine.assemble_operand (by decide) (fun _ => rfl) (k := 16) (m := 1) (by decide) (by omega)
  · exact Machine.assemble_operand (by decide) (fun _ => rfl) (k := 16) (m := 6) (by decide) (by omega)
  · exact Machine.assemble_operand (by decide) (fun _ => rfl) (k := 8) (m := 9) (by decide) (by omega)
  · interval_cases n <;> rfl
  · interval_cases n <;> rfl
  · interval_cases n <;> rfl
  · exact ⟨number h, number h⟩
  · exact number h
  · exact ⟨bit h, bit h, bit h⟩
  · simp [Machine.AsmStmt.assemble, Machine.operand_eq_some h]

end Sys2Proof
end

section
/-! SUPPORT and PROOFS of the statements on steps and inputs (spec/10_state.md section 8, spec/20_memory.md section 4):
a step, a run over presented words, and the obligations O8, O9, O10, O12, O13 and O14. -/
namespace Sys2Proof.Machine

/-! ## Runs over presented words -/

/-- The command that a presented word decodes to is executed without it. -/
theorem step_decoded {s : State} {w : Word} {rest : List HostInput} {i : Instr} (hd : decode w = .ok i)
    (hp : s.pending = .cmd w :: rest) : step s = exec i { s with pending := rest } :=
  (step_cmd hp).trans (takeCommand_ok hd _)

/-- A step that takes a word returns one response more. -/
theorem exists_step_cmd {s : State} {w : Word} {rest : List HostInput} (hp : s.pending = .cmd w :: rest) :
    ∃ u x, step s = .next u ∧ u.pending = rest ∧ u.rsp = s.rsp ++ [x] := by
  obtain ⟨r, x, h⟩ := takeCommand_after w { s with pending := rest }
  exact ⟨_, x, (step_cmd hp).trans h, rfl, rfl⟩

/-- The machine over the words `ws` at its port: each is taken in turn and answered (R38, R56). The statement of
`Obligations.OneResponsePerCommandInOrder`, with the returned responses as a list of their own. -/
theorem exists_run_words (ws : List Word) {s : State} {rest : List HostInput}
    (hp : s.pending = ws.map .cmd ++ rest) :
    ∃ t xs, core.run ws.length s = .next t ∧ t.pending = rest ∧ xs.length = ws.length ∧ t.rsp = s.rsp ++ xs ∧
      ∀ k < ws.length, ∃ u v, core.run k s = .next u ∧ step u = .next v ∧
        u.pending = (ws.drop k).map .cmd ++ rest ∧
        u.rsp = s.rsp ++ xs.take k ∧ v.rsp = s.rsp ++ xs.take (k + 1) := by
  induction ws generalizing s with
  | nil => exact ⟨s, [], rfl, hp, rfl, (List.append_nil _).symm, nofun⟩
  | cons w ws ih =>
    obtain ⟨u, x, hstep, hpu, hx⟩ := exists_step_cmd hp
    obtain ⟨t, xs, hrun, hpt, hlen, hxs, hk⟩ := ih hpu
    refine ⟨t, x :: xs, (run_succ hstep _).trans hrun, hpt, congrArg (· + 1) hlen, ?_, fun k lt => ?_⟩
    · rw [hxs, hx, List.append_assoc, List.singleton_append]
    · cases k with
      | zero => exact ⟨s, u, rfl, hstep, hp, by simp, by simp [hx]⟩
      | succ k =>
        obtain ⟨u', v, hrun', hstep', hp', hu, hv⟩ := hk k (Nat.lt_of_succ_lt_succ lt)
        exact ⟨u', v, (run_succ hstep _).trans hrun', hstep', hp', by simp [hu, hx], by simp [hv, hx]⟩

/-- Running over the words of commands is executing the commands: what is pending does not matter to them (R56). -/
theorem run_words_eq_execAll (is : List Instr) {s : State} {rest : List HostInput}
    (hp : s.pending = is.map (fun i => .cmd (encode i)) ++ rest) :
    core.run is.length s = execAll is { s with pending := rest } := by
  induction is generalizing s with
  | nil =>
    obtain rfl : s.pending = rest := hp
    rfl
  | cons i is ih =>
    obtain ⟨r, w, h⟩ := exec_local i s.cfg s.regs
    have here := h { s with pending := rest } rfl rfl
    have step := (step_decoded (decode_encode i) hp).trans (h _ rfl rfl)
    exact (run_succ step _).trans ((ih rfl).trans (execAll_cons here is).symm)

/-! ## The obligations on steps -/

/-- Settles O8: the step takes the oldest word, and `withFetchWord` puts one before all else. -/
theorem stepRunsTheDecodedCommand : Obligations.StepRunsTheDecodedCommand := by
  intro s w rest i hd
  refine ⟨step_decoded hd, ?_⟩
  rw [State.withFetchWord, tableWord_toNat]
  exact step_decoded hd (s.presentNext_pending w)

/-- Settles O9: the run over the words, its responses read off the final list. -/
theorem oneResponsePerCommandInOrder : Obligations.OneResponsePerCommandInOrder := by
  intro ws s rest hp
  obtain ⟨t, xs, hrun, hpt, hlen, hxs, hk⟩ := exists_run_words ws hp
  refine ⟨t, hrun, hpt, by simp [hxs, hlen], by simp [hxs], fun k lt => ?_⟩
  obtain ⟨u, v, hu, hstep, hpu, hru, hrv⟩ := hk k lt
  exact ⟨u, v, hu, hstep, hpu, by simp [hru, hxs, List.take_append], by simp [hrv, hxs, List.take_append]⟩

/-- Settles O10, by the case of a step with nothing presented. -/
theorem stepWithoutInputHoldsState : Obligations.StepWithoutInputHoldsState := by
  intro s hp
  rw [step, hp]

/-- Settles O12, by reading the reset state. -/
theorem resetStateValues : Obligations.ResetStateValues := by
  unfold Obligations.ResetStateValues
  decide

/-- Settles O13, over what a step can do. -/
theorem everyStepGoesOn : Obligations.EveryStepGoesOn := by
  intro s
  rcases step_cases s with ⟨hp, h⟩ | ⟨c, rest, hp, h⟩ | ⟨rest, hp, h⟩
  · exact ⟨s, h, rfl, by rw [hp]; rfl⟩
  · obtain ⟨r, w, h'⟩ := takeCommand_after c { s with pending := rest }
    exact ⟨_, h.trans h', rfl, by rw [hp]; rfl⟩
  · exact ⟨_, h, rfl, by rw [hp]; rfl⟩

/-- Settles O14, by induction on the commands. -/
theorem runOverWordsExecutesTheCommands : Obligations.RunOverWordsExecutesTheCommands :=
  fun is _ _ hp => run_words_eq_execAll is hp

end Sys2Proof.Machine
end

section
/-! SUPPORT and PROOFS of the other statements on the state and on one command (spec/10_state.md, spec/20_memory.md
section 3, spec/30_encoding.md section 1, spec/60_exceptions.md): the STATUS view, the status and the response of a
command, its frame, the invariants, and the obligations O30, O31, O33, O35 to O42, O44 and O48. -/
namespace Sys2Proof.Machine

/-! ## The views that `RDREG` reads -/

/-- The selectors that are reserved do not depend on the registers (R33). -/
theorem Regs.view_eq_none_iff (q : Regs) (sel : Sel) : q.view sel = none ↔ 10 < sel.toNat := by
  refine ⟨fun reserved => ?_, q.view_reserved⟩
  by_contra defined
  obtain ⟨v, view⟩ := q.exists_view_eq_some (not_lt.mp defined)
  simp [view] at reserved

/-- A counter is its two halves (R33, R78). -/
theorem halves_eq (w : Count) :
    (w.extractLsb' 16 16).setWidth 32 <<< 16 ||| (w.extractLsb' 0 16).setWidth 32 = w := by
  refine BitVec.eq_of_getLsbD_eq fun k hk => ?_
  interval_cases k <;> simp

/-- `RDREG` of a selector that is not reserved changes no register and returns the value in DATA (R191). -/
theorem exists_exec_rdreg {s : State} {sel : Sel} {v : Half} (view : s.regs.view sel = some v) :
    ∃ w, exec (.rdreg sel) s = .next (s.After s.regs w) ∧ rspData w = v :=
  ⟨_, (Completes.rdreg view).exec_eq, rspData_word _ _⟩

/-- Two reads, one after the other. -/
theorem exists_execAll_rdreg_pair {s : State} {lo hi : Sel} {x y : Half} (viewLo : s.regs.view lo = some x)
    (viewHi : s.regs.view hi = some y) :
    ∃ t v w, execAll [.rdreg lo, .rdreg hi] s = .next t ∧ t.regs = s.regs ∧ newResponses s t = [v, w] ∧
      rspData v = x ∧ rspData w = y := by
  obtain ⟨v, hv, rfl⟩ := exists_exec_rdreg viewLo
  obtain ⟨w, hw, rfl⟩ := exists_exec_rdreg (s := s.After s.regs v) viewHi
  exact ⟨_, v, w, (execAll_cons hv _).trans (execAll_cons hw []), rfl,
    newResponses_append s _ _ (List.append_assoc ..), rfl, rfl⟩

/-! ## The response of a command -/

section
variable {s t : State} {i : Instr} {r : Regs} {x : Response}

@[simp] theorem Status.code_eq_zero (e : Status) : e.code = 0#3 ↔ e = .ok := Status.code_inj (e := .ok)

/-- The line of `BSTEP` in the table of R220 while a request is active. -/
theorem expectedStatus_bstep_busy {cfg : Config} {r : Regs} (busy : r.busy = true) (c : Bit) :
    expectedStatus cfg r (.bstep c) =
      if r.bpos.toNat + 1 = 3 * r.req.toNat ∧ r.nextColl c ≠ r.req ∧ cfg.maxBatches ≠ 0 ∧
        r.batches + 1 = cfg.maxBatches then .exhausted else .ok :=
  if_neg (by simp [busy])

/-- The status by the table of R220, where R34 (c) says that the batch-end test is one on numbers. -/
theorem Completes.st_eq_expectedStatus (h : Completes s i r x) (inv : s.regs.Inv) :
    x.st = expectedStatus s.cfg s.regs i := by
  have lastBit (busy : s.regs.busy = true) := bpos_succ_eq_batchLength (inv.busy_bpos busy)
  cases h with
  | nop | babort | babortIdle => rfl
  | seed _ idle | ext _ idle | eflush idle => simp [expectedStatus, idle]
  | lstep idle seeded | raw _ idle seeded | breqZero idle seeded | breq _ idle seeded =>
    simp [expectedStatus, idle, seeded]
  | bstepInside c busy inside =>
    rw [expectedStatus_bstep_busy busy, if_neg fun ⟨last, _⟩ => inside ((lastBit busy).mpr last), emit_st]
  | bstepDone c busy last full =>
    rw [takeRaw_coll_eq] at full
    rw [expectedStatus_bstep_busy busy, if_neg fun ⟨_, short, _⟩ => short full, emit_st]
  | bstepExhausted c busy last short spent =>
    rw [takeRaw_coll_eq] at short
    rw [expectedStatus_bstep_busy busy, if_pos ⟨(lastBit busy).mp last, short, (retryExhausted_iff _ _).mp spent⟩]
  | bstepNextBatch c busy last short more =>
    have notSpent := mt (retryExhausted_iff s.cfg (s.regs.batches + 1)).mpr (ne_true_of_eq_false more)
    rw [expectedStatus_bstep_busy busy, if_neg fun ⟨_, _, spent⟩ => notSpent spent, emit_st]
  | bstepIdle c idle => simp [expectedStatus, idle]
  | turnedAwayBusy needs busy => cases i <;> cases needs <;> simp [expectedStatus, busy]
  | turnedAwayUnseeded needs idle unseeded => cases i <;> cases needs <;> simp [expectedStatus, idle, unseeded]
  | @rdreg sel v view =>
    have defined : ¬10 < sel.toNat := mt (s.regs.view_eq_none_iff sel).mpr (by simp [view])
    exact (if_pos (not_lt.mp defined)).symm
  | @rdregReserved sel reserved =>
    exact (if_neg (not_le.mpr ((s.regs.view_eq_none_iff sel).mp reserved))).symm

/-- Codes 6 and 7 are never produced (R220). -/
theorem Status.code_le_five (e : Status) : e.code.toNat ≤ 5 := by
  cases e <;> decide

/-- Which commands fill which fields of the response (R71, D34). -/
theorem Completes.response_fields (h : Completes s i r x) :
    (x.ov = false → x.ob = false) ∧ (x.data ≠ 0 → x.st = .ok ∧ ∃ sel, i = .rdreg sel) ∧
      (x.done = true → i = .breq 0 ∨ ∃ b, i = .bstep b) ∧
      (x.ov = true → i = .lstep ∨ ∃ b, i = .raw b ∨ i = .ext b ∨ i = .bstep b) := by
  cases h with
  | ext | bstepInside | bstepDone | bstepExhausted | bstepNextBatch => simp +contextual
  | _ => simp

/-! ## What a command leaves unchanged -/

/-- The way a command went, and what no command changes, whatever its way: the parameter, what is presented, and
`ERRS` where it reports OK. -/
theorem exec_frame (h : exec i s = .next t) :
    ∃ x, Completes s i t.regs x ∧ t.cfg = s.cfg ∧ t.pending = s.pending ∧
      t.rsp = s.rsp ++ [x.word t.regs.busy] ∧
      (rspSt (x.word t.regs.busy) = 0 → t.regs.errs = s.regs.errs) := by
  obtain ⟨r, x, hc⟩ := exists_completes i s
  obtain rfl : s.After r (x.word r.busy) = t := by simpa [hc.exec_eq] using h
  refine ⟨x, hc, rfl, rfl, rfl, fun ok => ?_⟩
  have reportsOk : x.st = .ok := by simpa using ok
  simp [hc.errs_eq, reportsOk, Status.errBit]

theorem Completes.control_frame {sel : Sel} (h : Completes s i r x) (hi : i ∈ [.nop, .rdreg sel]) :
    r = { s.regs with errs := r.errs } := by
  cases h with
  | nop | rdreg | rdregReserved | turnedAwayBusy | turnedAwayUnseeded => rfl
  | _ => simp at hi

theorem Completes.lfsr_frame {c : Bit} (h : Completes s i r x) (hi : i ∈ [.lstep, .raw c]) :
    r = { s.regs with lfsr := r.lfsr, rawcnt := r.rawcnt, errs := r.errs } ∧
      (i = .lstep → r.rawcnt = s.regs.rawcnt) ∧
      (x.st ≠ .ok → r.lfsr = s.regs.lfsr ∧ r.rawcnt = s.regs.rawcnt) := by
  cases h with
  | lstep => exact ⟨rfl, fun _ => rfl, fun turnedAway => absurd rfl turnedAway⟩
  | raw => exact ⟨rfl, nofun, fun turnedAway => absurd rfl turnedAway⟩
  | turnedAwayBusy | turnedAwayUnseeded => exact ⟨rfl, fun _ => rfl, fun _ => ⟨rfl, rfl⟩⟩
  | _ => simp at hi

theorem Completes.extractor_frame {b : Bit} (h : Completes s i r x) (hi : i ∈ [.ext b, .eflush]) :
    r = { s.regs with pv := r.pv, pb := r.pb, errs := r.errs } ∧
      (x.st ≠ .ok → r.pv = s.regs.pv ∧ r.pb = s.regs.pb) := by
  cases h with
  | ext | eflush => exact ⟨rfl, fun turnedAway => absurd rfl turnedAway⟩
  | turnedAwayBusy | turnedAwayUnseeded => exact ⟨rfl, fun _ => ⟨rfl, rfl⟩⟩
  | _ => simp at hi

theorem Completes.seed_busy {imm : Half} (h : Completes s (.seed imm) r x) : r.busy = s.regs.busy := by
  cases h <;> rfl

theorem Completes.breq_frame {n : Half} (h : Completes s (.breq n) r x) :
    r.lfsr = s.regs.lfsr ∧ r.seeded = s.regs.seeded ∧ r.rawcnt = s.regs.rawcnt ∧ r.balcnt = s.regs.balcnt := by
  cases h <;> exact ⟨rfl, rfl, rfl, rfl⟩

theorem Completes.bstep_frame {c : Bit} (h : Completes s (.bstep c) r x) :
    r.seeded = s.regs.seeded ∧ r.req = s.regs.req := by
  cases h <;> exact ⟨rfl, rfl⟩

theorem Completes.babort_frame (h : Completes s .babort r x) :
    r = { s.regs with busy := r.busy, pv := r.pv, pb := r.pb, bpos := r.bpos } := by
  cases h with
  | babort | babortIdle => rfl
  | turnedAwayBusy needs | turnedAwayUnseeded needs => cases needs

/-! ## The invariants -/

/-- R34 with no request active: what is left of the seven invariants. -/
theorem Regs.Inv.of_idle {q : Regs} (idle : q.busy = false) (bpos : q.bpos = 0) (coll : q.coll.toNat ≤ q.req.toNat)
    (pair : q.pv = false → q.pb = false) : q.Inv where
  busy_seeded busy := by simp [idle] at busy
  busy_req busy := by simp [idle] at busy
  busy_bpos busy := by simp [idle] at busy
  idle_bpos _ := bpos
  coll_le_req := coll
  no_pair_no_bit := pair
  busy_pairing busy := by simp [idle] at busy

/-- R34 does not speak of `ERRS`. -/
theorem Regs.Inv.setErr {q : Regs} (inv : q.Inv) (e : Status) : (q.setErr e).Inv :=
  ⟨inv.busy_seeded, inv.busy_req, inv.busy_bpos, inv.idle_bpos, inv.coll_le_req, inv.no_pair_no_bit,
    inv.busy_pairing⟩

/-- R34 at the start of a batch of an active request. -/
theorem Regs.Inv.of_batch_start {q : Regs} (seeded : q.seeded = true) (req : q.req ≠ 0)
    (bpos : q.bpos = 0) (coll : q.coll.toNat ≤ q.req.toNat) (pv : q.pv = false) (pb : q.pb = false) : q.Inv where
  busy_seeded _ := seeded
  busy_req _ := BitVec.toNat_pos_of_ne_zero req
  busy_bpos _ := by simp [bpos, BitVec.toNat_pos_of_ne_zero req]
  idle_bpos _ := bpos
  coll_le_req := coll
  no_pair_no_bit _ := pb
  busy_pairing _ := by simp [bpos, pv]

theorem startRequest_inv {q : Regs} {n : Half} (seeded : q.seeded = true) (positive : n ≠ 0) :
    (q.startRequest n).Inv :=
  .of_batch_start seeded positive rfl (Nat.zero_le _) rfl rfl

/-- A delivered bit leaves `COLL` at most `REQ`: none is delivered at `REQ` (R28). -/
theorem takeRaw_coll_le {q : Regs} (le : q.coll.toNat ≤ q.req.toNat) (c : Bit) :
    (q.takeRaw c).coll.toNat ≤ q.req.toNat := by
  rw [takeRaw_coll_toNat, Regs.delivered]
  split
  case isTrue room =>
    have : (q.feedRaw c).2.2.toList.length ≤ 1 := Option.length_toList_le
    rw [BitVec.lt_def] at room
    omega
  case isFalse => exact le

/-- R34 inside a batch: the extractor's half pair changes with the parity of `BPOS`. -/
theorem stepInside_inv {q : Regs} (inv : q.Inv) (busy : q.busy = true)
    (inside : q.bpos.toNat + 1 < 3 * q.req.toNat) (c : Bit) : (q.stepInside c).Inv := by
  obtain ⟨pv, pb⟩ := feedRaw_eq q c
  have bpos := stepInside_bpos inside c
  have parity := inv.busy_pairing busy
  exact {
    busy_seeded := inv.busy_seeded
    busy_req := inv.busy_req
    busy_bpos := fun _ => bpos ▸ inside
    idle_bpos := fun idle => absurd (busy.symm.trans idle) nofun
    coll_le_req := takeRaw_coll_le inv.coll_le_req c
    no_pair_no_bit := fun empty => by
      have second : q.pv = true := by simpa using pv.symm.trans empty
      exact pb.trans (if_pos second)
    busy_pairing := fun _ => by
      rw [bpos, Regs.stepInside, pv, Bool.not_eq_true', ← Bool.not_eq_true, parity]
      omega }

/-- `vn_feed` leaves no bit without a half pair (R34 (f)). -/
theorem vnFeed_no_pair_no_bit (pv pb b : Bit) : (vnFeed pv pb b).1 = false → (vnFeed pv pb b).2.1 = false := by
  cases pv <;> simp

/-- Every way of a command keeps R34. -/
theorem Completes.keeps_inv (h : Completes s i r x) (inv : s.regs.Inv) : r.Inv := by
  cases h with
  | turnedAwayBusy | turnedAwayUnseeded | bstepIdle | rdregReserved => exact inv.setErr _
  | nop | lstep | raw | breqZero | babortIdle | rdreg =>
    exact ⟨inv.busy_seeded, inv.busy_req, inv.busy_bpos, inv.idle_bpos, inv.coll_le_req, inv.no_pair_no_bit,
      inv.busy_pairing⟩
  | seed _ idle => exact .of_idle idle rfl le_rfl fun _ => rfl
  | ext b idle => exact .of_idle idle (inv.idle_bpos idle) inv.coll_le_req (vnFeed_no_pair_no_bit _ _ b)
  | eflush idle => exact .of_idle idle (inv.idle_bpos idle) inv.coll_le_req fun _ => rfl
  | breq n idle seeded positive => exact startRequest_inv seeded positive
  | bstepInside c busy inside =>
    have bpos := inv.busy_bpos busy
    have notLast := mt (bpos_succ_eq_batchLength bpos).mpr inside
    exact stepInside_inv inv busy (by omega) c
  | bstepDone c | bstepExhausted c => exact .of_idle rfl rfl (takeRaw_coll_le inv.coll_le_req c) fun _ => rfl
  | bstepNextBatch c busy =>
    have positive : s.regs.req ≠ 0 := fun zero => by simpa [zero] using inv.busy_req busy
    exact .of_batch_start (inv.busy_seeded busy) positive rfl (takeRaw_coll_le inv.coll_le_req c) rfl rfl
  | babort => exact .of_idle rfl rfl inv.coll_le_req fun _ => rfl

theorem reset_inv : Regs.reset.Inv := .of_idle rfl rfl le_rfl fun _ => rfl

/-! ## The bound on batches -/

/-- Counting a batch below the bound without reaching it does not wrap. -/
theorem succ_lt_bound {batches bound : Half} (lt : batches.toNat < bound.toNat) (notSpent : batches + 1 ≠ bound) :
    (batches + 1).toNat < bound.toNat := by
  bv_omega

/-- Every way of a command keeps the batches of an active request below the bound: the batch that reaches it ends the
request, and `BREQ` starts at 0 (R162, R166). -/
theorem Completes.keeps_belowRetryBound (h : Completes s i r x) (below : s.BelowRetryBound) (w : Word) :
    (s.After r w).BelowRetryBound := by
  cases h with
  | seed _ idle | ext _ idle | eflush idle => exact fun busy => absurd (idle.symm.trans busy) nofun
  | breq n => exact fun _ bounded => BitVec.toNat_pos_of_ne_zero bounded
  | bstepDone | bstepExhausted | babort => exact nofun
  | bstepNextBatch c busy last short more =>
    intro _ bounded
    have lt := below busy bounded
    have notSpent : s.regs.batches + 1 ≠ s.cfg.maxBatches := fun spent =>
      absurd ((retryExhausted_iff _ _).mpr ⟨bounded, spent⟩) (ne_true_of_eq_false more)
    exact succ_lt_bound lt notSpent
  | _ => exact below

/-! ## The beginning and the end of a request -/

theorem Completes.begins (h : Completes s i r x) (idle : s.regs.busy = false) (busy : r.busy = true) :
    s.regs.seeded = true ∧ ∃ n, n ≠ 0 ∧ i = .breq n ∧ r.req = n := by
  cases h with
  | breq n _ seeded positive => exact ⟨seeded, n, positive, rfl, rfl⟩
  | _ => simp [idle] at busy

theorem Completes.ends (h : Completes s i r x) (busy : s.regs.busy = true) (idle : r.busy = false) :
    i = .babort ∨ ((∃ b, i = .bstep b) ∧ (x.done = true ∨ x.st = .exhausted)) := by
  cases h with
  | bstepDone c => exact .inr ⟨⟨c, rfl⟩, .inl rfl⟩
  | bstepExhausted c => exact .inr ⟨⟨c, rfl⟩, .inr rfl⟩
  | babort => exact .inl rfl
  | _ => simp [busy] at idle

/-! ## Commands executed again -/

@[simp] theorem Regs.setErr_setErr (e : Status) (q : Regs) : (q.setErr e).setErr e = q.setErr e := by
  simp [Regs.setErr, BitVec.or_assoc]

/-- The commands of R55 can go their way again, from where it led to and to where it led. -/
theorem Completes.again {sel : Sel} {imm : Half} (h : Completes s i r x)
    (hi : i ∈ [.nop, .rdreg sel, .seed imm, .eflush, .babort, .breq 0]) (w : Word) :
    ∃ y, Completes (s.After r w) i r y := by
  have turnedAway {i : Instr} {e : Status} {y : Response}
      (next : Completes (s.After (s.regs.setErr e) w) i ((s.regs.setErr e).setErr e) y) :
      ∃ y, Completes (s.After (s.regs.setErr e) w) i (s.regs.setErr e) y := by
    rw [Regs.setErr_setErr] at next
    exact ⟨y, next⟩
  cases h with
  | nop => exact ⟨_, .nop⟩
  | seed imm idle => exact ⟨_, .seed imm (s := s.After _ w) idle⟩
  | eflush idle => exact ⟨_, .eflush (s := s.After _ w) idle⟩
  | breqZero idle seeded => exact ⟨_, .breqZero (s := s.After _ w) idle seeded⟩
  | breq n _ _ positive =>
    simp at hi
    exact absurd hi positive
  | babort => exact ⟨_, .babortIdle (s := s.After _ w) rfl⟩
  | babortIdle idle => exact ⟨_, .babortIdle (s := s.After _ w) idle⟩
  | rdreg view => exact ⟨_, .rdreg (s := s.After _ w) view⟩
  | turnedAwayBusy needs busy => exact turnedAway (.turnedAwayBusy needs busy)
  | turnedAwayUnseeded needs idle unseeded => exact turnedAway (.turnedAwayUnseeded needs idle unseeded)
  | @rdregReserved sel reserved =>
    refine turnedAway (.rdregReserved ?_)
    exact (Regs.view_eq_none_iff _ sel).mpr ((s.regs.view_eq_none_iff sel).mp reserved)
  | _ => simp at hi

end

/-! ## Steps -/

/-- What every way of a command, an illegal word and a reset keep, and what does not depend on the inputs still
presented, every step keeps. -/
theorem step_keeps {P : State → Prop} (input : ∀ s rest, P s → P { s with pending := rest })
    (command : ∀ s i r x w, Completes s i r x → P s → P (s.After r w))
    (illegal : ∀ s w, P s → P (s.After (s.regs.setErr .illegal) w))
    (reset : ∀ s, P s → P { s with regs := Regs.reset }) {s t : State} (hs : P s) (h : step s = .next t) : P t := by
  rcases step_cases s with ⟨-, he⟩ | ⟨c, rest, -, he⟩ | ⟨rest, -, he⟩
  · obtain rfl := Host.Outcome.next.inj (he.symm.trans h)
    exact hs
  · have next := he.symm.trans h
    rcases takeCommand_eq_complete c { s with pending := rest } with ⟨i, r, x, -, hc, ht⟩ | ⟨-, ht⟩
    · obtain rfl := Host.Outcome.next.inj (ht.symm.trans next)
      exact command _ i r x _ hc (input s rest hs)
    · obtain rfl := Host.Outcome.next.inj (ht.symm.trans next)
      exact illegal _ _ (input s rest hs)
  · obtain rfl := Host.Outcome.next.inj (he.symm.trans h)
    exact reset _ (input s rest hs)

/-! ## The obligations on the state and on one command -/

/-- Settles O30, bit by bit. -/
theorem statusLayout : Obligations.StatusLayout := by
  intro r
  simp only [Regs.status, BitVec.getLsbD_append]
  refine ⟨by simp, by simp, by simp, by simp, fun k lo hi => ?_, fun k hk => ?_, fun k hk => ?_⟩
  · interval_cases k <;> simp
  · interval_cases k <;> simp
  · obtain ⟨j, rfl⟩ := Nat.exists_eq_add_of_le' hk
    simp

/-- Settles O31: each pair of reads returns the two halves of its counter, and the first changes no register. -/
theorem counterReadInTwoHalvesIsWhole : Obligations.CounterReadInTwoHalvesIsWhole := by
  intro s
  obtain ⟨t, lo, hi, run, regs, responses, hlo, hhi⟩ :=
    exists_execAll_rdreg_pair (s := s) (lo := 2) (hi := 3) rfl rfl
  obtain ⟨u, blo, bhi, run', -, responses', hblo, hbhi⟩ :=
    exists_execAll_rdreg_pair (s := t) (lo := 4) (hi := 5) rfl rfl
  refine ⟨t, u, lo, hi, blo, bhi, run, responses, ?_, run', responses', ?_⟩
  · rw [hlo, hhi, halves_eq]
  · rw [hblo, hbhi, regs, halves_eq]

/-- Settles O33: the status of the way a command goes is the table's. -/
theorem statusOfEveryCommand : Obligations.StatusOfEveryCommand := by
  intro c s inv
  rcases takeCommand_eq_complete c s with ⟨i, r, x, hd, hc, he⟩ | ⟨⟨e, hd⟩, he⟩
  · exact ⟨_, _, he, rfl, by simp [hd], by simp [hd, hc.st_eq_expectedStatus inv]⟩
  · exact ⟨_, _, he, rfl, by simp [Status.code], by simp [hd]⟩

/-- Settles O35: the fields by the way a command goes, and an illegal word's response. -/
theorem responseWordFields : Obligations.ResponseWordFields := by
  intro c s
  rcases takeCommand_eq_complete c s with ⟨i, r, x, hd, hc, he⟩ | ⟨-, he⟩
  · obtain ⟨output, data, done, delivers⟩ := hc.response_fields
    refine ⟨_, _, he, rfl, rspRsv_word _ _, ?_, rspBusy_word _ _, ?_, ?_, ?_, ?_⟩
    · simpa using output
    · simpa using x.st.code_le_five
    · simpa [hd] using data
    · simpa [hd] using done
    · simpa [hd] using delivers
  · refine ⟨_, _, he, rfl, rspRsv_word _ _, ?_, rspBusy_word _ _, ?_, ?_, ?_, ?_⟩ <;> simp [Status.code]

/-- Settles O36, over the ways of the two commands. -/
theorem controlCommandsFrame : Obligations.ControlCommandsFrame := by
  intro sel i s t hi h
  obtain ⟨x, hc, cfg, pending, rsp, errs⟩ := exec_frame h
  exact ⟨hc.control_frame hi, cfg, pending, _, rsp, errs⟩

/-- Settles O37, over the ways of the two commands. -/
theorem lfsrCommandsFrame : Obligations.LfsrCommandsFrame := by
  intro c i s t hi h
  obtain ⟨x, hc, cfg, pending, rsp, errs⟩ := exec_frame h
  obtain ⟨regs, rawcnt, turnedAway⟩ := hc.lfsr_frame hi
  exact ⟨regs, rawcnt, cfg, pending, _, rsp, errs, by simpa using turnedAway⟩

/-- Settles O38, over the ways of the two commands. -/
theorem extractorCommandsFrame : Obligations.ExtractorCommandsFrame := by
  intro b i s t hi h
  obtain ⟨x, hc, cfg, pending, rsp, errs⟩ := exec_frame h
  obtain ⟨regs, turnedAway⟩ := hc.extractor_frame hi
  exact ⟨regs, cfg, pending, _, rsp, errs, by simpa using turnedAway⟩

/-- Settles O39, over the ways of the four commands. -/
theorem sequencerCommandsFrame : Obligations.SequencerCommandsFrame := by
  intro imm c s t
  refine ⟨fun h => ?_, fun h => ?_, fun h => ?_, fun h => ?_, fun i _ h => ?_⟩ <;>
    obtain ⟨x, hc, cfg, pending, rsp, errs⟩ := exec_frame h
  · exact hc.seed_busy
  · exact hc.breq_frame
  · exact hc.bstep_frame
  · exact hc.babort_frame
  · exact ⟨cfg, pending, _, rsp, errs⟩

/-- Settles O40: every way of a command keeps the invariants, and the reset registers meet them. -/
theorem stepKeepsTheInvariants : Obligations.StepKeepsTheInvariants := by
  intro s t
  refine step_keeps (P := fun s => s.regs.Inv) (fun _ _ inv => inv) (fun _ _ _ _ _ hc inv => hc.keeps_inv inv)
    (fun _ _ inv => ?_) (fun _ _ => reset_inv)
  exact inv.setErr .illegal

/-- Settles O41: the reset registers are idle, with nothing counted. -/
theorem resetMeetsTheInvariants : Obligations.ResetMeetsTheInvariants := reset_inv

/-- Settles O42: every way of a command keeps the bound, and after a reset no request is active. -/
theorem stepKeepsBatchesBelowTheBound : Obligations.StepKeepsBatchesBelowTheBound := by
  intro s t
  exact step_keeps (P := State.BelowRetryBound) (fun _ _ below => below)
    (fun _ _ _ _ w hc below => hc.keeps_belowRetryBound below w) (fun _ _ below => below) (fun _ _ => nofun)

/-- Settles O44, over the ways that change BUSY. -/
theorem requestsBeginAndEndByTheirCommands : Obligations.RequestsBeginAndEndByTheirCommands := by
  intro i s t w h hw
  obtain ⟨x, hc, rfl⟩ := completes_of_exec h hw
  rw [rspDone_word, rspSt_word]
  exact ⟨hc.begins, fun busy idle =>
    (hc.ends busy idle).imp_right (And.imp_right (Or.imp_right (congrArg Status.code)))⟩

/-- Settles O48: each of the commands goes again to where it went. -/
theorem repeatingAnIdempotentCommandChangesNothing : Obligations.RepeatingAnIdempotentCommandChangesNothing := by
  intro sel imm i s hi
  obtain ⟨r, x, hc⟩ := exists_completes i s
  obtain ⟨y, again⟩ := hc.again hi (x.word r.busy)
  exact ⟨_, _, hc.exec_eq, again.exec_eq, rfl⟩

end Sys2Proof.Machine
end

section
/-! SUPPORT and PROOFS of the statements on the LFSR's long run (spec/40_lfsr.md R103): small values run into 0, all
others enter one cycle of 63 states, and the obligations O18 and O19. -/
namespace Sys2Proof.Machine

/-! ## Small values -/

/-- Below 0x0400 no tap is set, and a step only halves the value. -/
theorem lfsrNext_small {s : Half} (small : s.toNat < 2 ^ 10) : (lfsrNext s).1.toNat = s.toNat / 2 := by
  have clear (k : Nat) (hk : 10 ≤ k) : s.getLsbD k = false :=
    Nat.testBit_lt_two_pow (small.trans_le (Nat.pow_le_pow_right two_pos hk))
  have feedback : lfsrFeedback s = false := by
    rw [lfsrFeedback, clear 15 (by decide), clear 13 (by decide), clear 12 (by decide), clear 10 le_rfl]
    rfl
  have fits : s.toNat / 2 < 2 ^ 15 := by omega
  rw [lfsrNext, feedback]
  refine (BitVec.toNat_append ..).trans ?_
  simpa [Nat.shiftRight_eq_div_pow] using fits

theorem lfsrState_small {s : Half} (small : s.toNat < 2 ^ 10) (k : Nat) :
    (lfsrState s k).toNat = s.toNat / 2 ^ k := by
  induction k with
  | zero => simp [lfsrState]
  | succ k ih =>
    have below : (lfsrState s k).toNat < 2 ^ 10 := ih ▸ (Nat.div_le_self _ _).trans_lt small
    rw [lfsrState, lfsrNext_small below, ih, Nat.div_div_eq_div_mul, Nat.pow_succ]

/-! ## The step as an iteration -/

theorem lfsrState_eq_iterate (s : Half) (n : Nat) : lfsrState s n = (fun a => (lfsrNext a).1)^[n] s := by
  induction n with
  | zero => rfl
  | succ n ih => rw [Function.iterate_succ_apply', ← ih, lfsrState]

@[simp] theorem lfsrState_zero_state (n : Nat) : lfsrState 0 n = 0 := by
  induction n with
  | zero => rfl
  | succ n ih => rw [lfsrState, ih]; rfl

/-- A state that was 0 is 0. -/
theorem lfsrState_ne_zero_of_le {s : Half} {m n : Nat} (le : m ≤ n) (later : lfsrState s n ≠ 0) :
    lfsrState s m ≠ 0 := by
  obtain ⟨d, rfl⟩ := Nat.exists_eq_add_of_le le
  intro zero
  rw [lfsrState_add, zero] at later
  exact later (lfsrState_zero_state d)

/-! ## The cycle from 0x05F9 -/

/-- Some states of the cycle; 63 steps are run in three parts. -/
theorem lfsrState_cycle_values :
    lfsrState 0x05F9 9 = 0x4382 ∧ lfsrState 0x05F9 21 = 0x3624 ∧ lfsrState 0x3624 21 = 0x33DD ∧
      lfsrState 0x33DD 21 = 0x05F9 := by
  refine ⟨?_, ?_, ?_, ?_⟩ <;> simp [lfsrState, lfsrNext, lfsrFeedback]

/-- The cycle closes after 63 steps and not after 9 or 21, so its least period is 63. -/
theorem minimalPeriod_cycle : Function.minimalPeriod (fun a => (lfsrNext a).1) 0x05F9 = 63 := by
  obtain ⟨at9, at21, at42, at63⟩ := lfsrState_cycle_values
  have closed (n : Nat) : Function.minimalPeriod (fun a => (lfsrNext a).1) 0x05F9 ∣ n ↔
      lfsrState 0x05F9 n = 0x05F9 := by
    rw [← Function.isPeriodicPt_iff_minimalPeriod_dvd, Function.IsPeriodicPt, Function.IsFixedPt,
      ← lfsrState_eq_iterate]
  have divides := (closed 63).mpr (by rw [lfsrState_add _ 42 21, lfsrState_add _ 21 21, at21, at42, at63])
  have not9 := mt (closed 9).mp (by rw [at9]; decide)
  have not21 := mt (closed 21).mp (by rw [at21]; decide)
  have le := Nat.le_of_dvd (by decide) divides
  generalize Function.minimalPeriod _ _ = p at *
  interval_cases p <;> omega

theorem lfsrState_cycle_injOn {i j : Nat} (hi : i < 63) (hj : j < 63)
    (h : lfsrState 0x05F9 i = lfsrState 0x05F9 j) : i = j := by
  rw [lfsrState_eq_iterate, lfsrState_eq_iterate] at h
  refine Function.iterate_injOn_Iio_minimalPeriod ?_ ?_ h <;> rw [minimalPeriod_cycle] <;> assumption

theorem lfsrState_cycle_mod (n : Nat) : lfsrState 0x05F9 (n % 63) = lfsrState 0x05F9 n := by
  rw [lfsrState_eq_iterate, lfsrState_eq_iterate, ← minimalPeriod_cycle, Function.iterate_mod_minimalPeriod_eq]

/-! ## Every large value enters the cycle -/

/-- The bits of a state satisfy the short recurrence of R103 (b). -/
def ShortRecurrence (t : Half) : Prop :=
  ∀ i < 10, t.getLsbD (i + 6) =
    (((t.getLsbD (i + 5) ^^ t.getLsbD (i + 3)) ^^ t.getLsbD (i + 2)) ^^ t.getLsbD i)

/-- From output 10 on the recurrence of R101 is the short one. -/
theorem lfsrOut_short {m : Nat} (hm : 10 ≤ m) (s : Half) :
    lfsrOut s (m + 6) =
      (((lfsrOut s (m + 5) ^^ lfsrOut s (m + 3)) ^^ lfsrOut s (m + 2)) ^^ lfsrOut s m) := by
  obtain ⟨t, rfl⟩ := Nat.exists_eq_add_of_le' hm
  obtain ⟨-, recurrence⟩ := lfsrOutputsFollowTheRecurrence s
  exact recurrence t

theorem shortRecurrence_lfsrState {k : Nat} (hk : 10 ≤ k) (s : Half) : ShortRecurrence (lfsrState s k) := by
  intro i hi
  have bit {j : Nat} (hj : j ≤ 15) := (lfsrOut_add hj s k).symm
  rw [bit (by omega), bit (by omega), bit (by omega), bit (by omega), bit (by omega)]
  exact lfsrOut_short (Nat.le_add_right_of_le hk) s

/-- Such a state is determined by its low six bits. -/
theorem ShortRecurrence.ext {t u : Half} (ht : ShortRecurrence t) (hu : ShortRecurrence u)
    (low : ∀ i < 6, t.getLsbD i = u.getLsbD i) : t = u := by
  refine BitVec.eq_of_getLsbD_eq fun k hk => ?_
  induction k using Nat.strong_induction_on with
  | _ k ih =>
    rcases lt_or_ge k 6 with lt | ge
    · exact low k lt
    · obtain ⟨i, rfl⟩ := Nat.exists_eq_add_of_le' ge
      rw [ht i (by omega), hu i (by omega), ih _ (by omega) (by omega), ih (i + 3) (by omega) (by omega),
        ih (i + 2) (by omega) (by omega), ih i (by omega) (by omega)]

theorem shortRecurrence_zero : ShortRecurrence 0 := by
  intro i _
  simp

theorem ShortRecurrence.setWidth_inj {t u : Half} (ht : ShortRecurrence t) (hu : ShortRecurrence u) :
    t.setWidth 6 = u.setWidth 6 ↔ t = u := by
  refine ⟨fun h => ht.ext hu fun i hi => ?_, congrArg _⟩
  simpa [hi] using congrArg (fun v : BitVec 6 => v.getLsbD i) h

theorem shortRecurrence_cycle (j : Nat) : ShortRecurrence (lfsrState 0x05F9 j) := by
  rw [← lfsrState_cycle_mod, ← Nat.add_mod_right, lfsrState_cycle_mod]
  exact shortRecurrence_lfsrState (by omega) _

theorem lfsrState_cycle_ne_zero (n : Nat) : lfsrState 0x05F9 n ≠ 0 := by
  have again : lfsrState 0x05F9 (63 * n) = 0x05F9 := by
    rw [← lfsrState_cycle_mod, Nat.mul_mod_right, lfsrState]
  refine lfsrState_ne_zero_of_le (show n ≤ 63 * n by omega) ?_
  rw [again]
  decide

/-- The low six bits along the cycle: 63 values other than 0. -/
def cycleLow (j : Fin 63) : {u : BitVec 6 // u ≠ 0} :=
  ⟨(lfsrState 0x05F9 j).setWidth 6, fun zero => lfsrState_cycle_ne_zero j
    (((shortRecurrence_cycle j).setWidth_inj shortRecurrence_zero).mp zero)⟩

/-- They are all the values other than 0, since they are 63 distinct ones. -/
theorem cycleLow_surjective : Function.Surjective cycleLow := by
  have injective : Function.Injective cycleLow := by
    intro i j h
    have low := congrArg Subtype.val h
    exact Fin.ext (lfsrState_cycle_injOn i.isLt j.isLt
      (((shortRecurrence_cycle i).setWidth_inj (shortRecurrence_cycle j)).mp low))
  have count : Fintype.card (Fin 63) = Fintype.card {u : BitVec 6 // u ≠ 0} := by decide
  exact ((Fintype.bijective_iff_injective_and_card _).mpr ⟨injective, count⟩).surjective

/-- The cycle is all of the states that satisfy the short recurrence, except 0. -/
theorem ShortRecurrence.exists_cycle {t : Half} (ht : ShortRecurrence t) (nonzero : t ≠ 0) :
    ∃ j < 63, t = lfsrState 0x05F9 j := by
  have low : t.setWidth 6 ≠ 0 := fun zero => nonzero ((ht.setWidth_inj shortRecurrence_zero).mp zero)
  obtain ⟨j, hj⟩ := cycleLow_surjective ⟨_, low⟩
  exact ⟨j, j.isLt, (((shortRecurrence_cycle j).setWidth_inj ht).mp (congrArg Subtype.val hj)).symm⟩

/-- A large value has a bit that ten steps leave in the register. -/
theorem lfsrState_ten_ne_zero {s : Half} (large : 0x0400 ≤ s.toNat) : lfsrState s 10 ≠ 0 := by
  intro zero
  refine large.not_gt (Nat.lt_pow_two_of_testBit (n := 10) _ fun k hk => ?_)
  rcases lt_or_ge k 16 with lt | ge
  · have bit := lfsrState_getLsbD (n := 10) (k := k - 10) (by omega) s
    rw [zero, Nat.sub_add_cancel hk] at bit
    exact bit.symm.trans (BitVec.getLsbD_zero)
  · exact BitVec.getLsbD_of_ge s k ge

/-! ## The obligations -/

/-- Settles O18: the value is halved until it is 0. -/
theorem smallSeedRunsIntoZero : Obligations.SmallSeedRunsIntoZero := by
  intro s h hh lo hi
  have small : s.toNat < 2 ^ 10 := hi.trans_le (Nat.pow_le_pow_right two_pos hh)
  refine ⟨fun k hk zero => ?_, fun k hk => ?_⟩
  · have halves := lfsrState_small small k
    rw [zero] at halves
    have : 0 < s.toNat / 2 ^ k := Nat.div_pos ((Nat.pow_le_pow_right two_pos hk).trans lo) (Nat.two_pow_pos k)
    exact this.ne halves
  · have zero : lfsrState s k = 0 := by
      refine BitVec.eq_of_toNat_eq ?_
      rw [lfsrState_small small, Nat.div_eq_of_lt (hi.trans_le (Nat.pow_le_pow_right two_pos hk))]
      rfl
    exact ⟨zero, by rw [lfsrOut, zero]; rfl⟩

/-- Settles O19: after ten steps the state satisfies the short recurrence, and the states that do are 0 and the
cycle. -/
theorem largeSeedEntersTheSharedCycle : Obligations.LargeSeedEntersTheSharedCycle := by
  refine ⟨fun s large => ?_, fun i hi j hj h => lfsrState_cycle_injOn hi hj h, fun k hk j _ on => ?_⟩
  · have enters {k : Nat} (hk : 10 ≤ k) : ∃ j < 63, lfsrState s k = lfsrState 0x05F9 j := by
      obtain ⟨j, -, hj⟩ :=
        (shortRecurrence_lfsrState le_rfl s).exists_cycle (lfsrState_ten_ne_zero large)
      refine ⟨(j + (k - 10)) % 63, Nat.mod_lt _ (by decide), ?_⟩
      rw [lfsrState_cycle_mod, lfsrState_add, ← hj, ← lfsrState_add, Nat.add_sub_cancel' hk]
    have period {k : Nat} (hk : 10 ≤ k) : lfsrState s (k + 63) = lfsrState s k := by
      obtain ⟨j, -, hj⟩ := enters hk
      rw [lfsrState_add, hj, ← lfsrState_add, ← lfsrState_cycle_mod, Nat.add_mod_right, lfsrState_cycle_mod]
    refine ⟨fun k => ?_, fun k hk => enters hk, fun k hk => ⟨period hk, by rw [lfsrOut, period hk, lfsrOut]⟩,
      fun m hm => lfsrOut_short hm s⟩
    refine lfsrState_ne_zero_of_le (Nat.le_add_left k 10) ?_
    obtain ⟨j, -, hj⟩ := enters (Nat.le_add_right 10 k)
    exact hj ▸ lfsrState_cycle_ne_zero j
  · have at9 : lfsrState 0x0600 9 = 0x4383 := by simp [lfsrState, lfsrNext, lfsrFeedback]
    have later : lfsrState 0x0600 9 = lfsrState 0x05F9 (j + (9 - k)) := by
      rw [lfsrState_add, ← on, ← lfsrState_add, Nat.add_sub_cancel' hk]
    have short : ShortRecurrence 0x4383 := at9 ▸ later ▸ shortRecurrence_cycle _
    exact absurd (short 0 (by decide)) (by decide)

end Sys2Proof.Machine
end

section
/-! SUPPORT and PROOFS of the statements on sequences of commands (spec/20_memory.md section 3, spec/40_lfsr.md section
2, spec/43_balanced.md section 5): one `BSTEP` and a sequence of them, the host's own loop, two runs that differ in
`ERRS`, and the obligations O52, O53, O55, O56 and O57. -/
namespace Sys2Proof.Machine

/-! ## Responses and runs -/

/-- The output bits of a response, none or one (R53). -/
def Response.output (x : Response) : List Bit := if x.ov then [x.ob] else []

@[simp] theorem outputBits_word (x : Response) (b : Bit) (ws : List Word) :
    outputBits (x.word b :: ws) = x.output ++ outputBits ws := by
  rw [outputBits, rspOv_word, rspOb_word, Response.output]
  cases x.ov <;> rfl

@[simp] theorem newOutputs_after (s : State) (r : Regs) (x : Response) (b : Bit) :
    newOutputs s (s.After r (x.word b)) = x.output := by
  rw [newOutputs, newResponses_after, outputBits_word, outputBits_nil, List.append_nil]

@[simp] theorem output_emit (o : Option Bit) : (Response.emit o).output = o.toList := by
  cases o <;> rfl

section
variable {s : State} {i : Instr} {r : Regs} {x : Response}

/-- A command that completes, and the commands after it. -/
theorem Completes.execAll_cons (h : Completes s i r x) (is : List Instr) :
    execAll (i :: is) s = execAll is (s.After r (x.word r.busy)) :=
  Machine.execAll_cons h.exec_eq is

/-! ## One `BSTEP` -/

/-- `COLL` counts the output bit of a `BSTEP`, and stays at most `REQ` (R28). -/
theorem Completes.bstep_coll {c : Bit} (h : Completes s (.bstep c) r x) :
    r.coll.toNat = s.regs.coll.toNat + x.output.length ∧
      (s.regs.coll.toNat ≤ s.regs.req.toNat → r.coll.toNat ≤ r.req.toNat) := by
  have coll := takeRaw_coll_toNat s.regs c
  rw [← output_emit] at coll
  cases h with
  | bstepInside | bstepDone | bstepExhausted | bstepNextBatch => exact ⟨coll, fun le => takeRaw_coll_le le c⟩
  | bstepIdle => exact ⟨rfl, id⟩
  | turnedAwayBusy needs | turnedAwayUnseeded needs => cases needs

end

/-- The number of bits that any `BSTEP`s deliver is what `COLL` grows by (R28, R169). -/
theorem execAll_bstep_coll (cs : List Bit) (s : State) :
    ∃ t ws, execAll (cs.map .bstep) s = .next t ∧ t.rsp = s.rsp ++ ws ∧
      t.regs.coll.toNat = s.regs.coll.toNat + (outputBits ws).length ∧ t.regs.req = s.regs.req ∧
      (s.regs.coll.toNat ≤ s.regs.req.toNat → t.regs.coll.toNat ≤ t.regs.req.toNat) := by
  induction cs generalizing s with
  | nil => exact ⟨s, [], rfl, by simp, rfl, rfl, id⟩
  | cons c cs ih =>
    obtain ⟨r, x, hc⟩ := exists_completes (.bstep c) s
    obtain ⟨coll, le⟩ := hc.bstep_coll
    obtain ⟨-, req⟩ := hc.bstep_frame
    obtain ⟨t, ws, run, rsp, coll', req', le'⟩ := ih (s.After r (x.word r.busy))
    refine ⟨t, x.word r.busy :: ws, (hc.execAll_cons _).trans run, rsp.trans (List.append_assoc ..), ?_,
      req'.trans req, fun h => le' (le h)⟩
    rw [coll', outputBits_word, List.length_append, ← Nat.add_assoc]
    exact congrArg (· + _) coll

/-! ## Requests under a bound -/

/-- The raw bits that a request has consumed: those of its complete batches and of the current one (R29, R30). -/
def Regs.requestBits (r : Regs) : Nat := 3 * r.req.toNat * r.batches.toNat + r.bpos.toNat

section
variable {s : State} (inv : s.regs.Inv) (below : s.BelowRetryBound) (busy : s.regs.busy = true)
  (bounded : s.cfg.maxBatches ≠ 0)
include inv below busy bounded

/-- Under a bound an active request has raw bits left. -/
theorem requestBits_lt : s.regs.requestBits < 3 * s.regs.req.toNat * s.cfg.maxBatches.toNat :=
  calc s.regs.requestBits
      < 3 * s.regs.req.toNat * s.regs.batches.toNat + 3 * s.regs.req.toNat :=
        Nat.add_lt_add_left (inv.busy_bpos busy) _
    _ = 3 * s.regs.req.toNat * (s.regs.batches.toNat + 1) := (Nat.mul_succ ..).symm
    _ ≤ 3 * s.regs.req.toNat * s.cfg.maxBatches.toNat := Nat.mul_le_mul_left _ (below busy bounded)

/-- A `BSTEP` of a request under a bound ends it, and reports DONE or EXHAUSTED, or consumes one of the raw bits
left (R162, R166). -/
theorem Completes.bstep_ends_or_advances {c : Bit} {r : Regs} {x : Response} (h : Completes s (.bstep c) r x) :
    (r.busy = false ∧ (x.done = true ∨ x.st = .exhausted)) ∨
      (r.busy = true ∧ r.requestBits = s.regs.requestBits + 1) := by
  have bpos := inv.busy_bpos busy
  have batches := below busy bounded
  cases h with
  | bstepInside _ _ inside =>
    have notLast := mt (bpos_succ_eq_batchLength bpos).mpr inside
    exact .inr ⟨busy, congrArg (_ + ·) (stepInside_bpos (by omega) c)⟩
  | bstepDone => exact .inl ⟨rfl, .inl rfl⟩
  | bstepExhausted => exact .inl ⟨rfl, .inr rfl⟩
  | bstepNextBatch _ _ last =>
    have one : (s.regs.batches + 1).toNat = s.regs.batches.toNat + 1 := by bv_omega
    have whole := (bpos_succ_eq_batchLength bpos).mp last
    refine .inr ⟨busy, ?_⟩
    rw [Regs.requestBits, Regs.requestBits, Nat.add_assoc, whole, ← Nat.mul_succ]
    exact congrArg (3 * s.regs.req.toNat * ·) one
  | turnedAwayBusy needs | turnedAwayUnseeded needs => cases needs
  | bstepIdle _ idle => exact absurd (idle.symm.trans busy) nofun

end

/-- With as many chaotic bits as the bound allows, an active request comes to its end. -/
theorem exists_bsteps_end (cs : List Bit) {s : State} (inv : s.regs.Inv) (below : s.BelowRetryBound)
    (busy : s.regs.busy = true) (bounded : s.cfg.maxBatches ≠ 0)
    (enough : 3 * s.regs.req.toNat * s.cfg.maxBatches.toNat ≤ s.regs.requestBits + cs.length) :
    ∃ k ≤ cs.length, ∃ t w ws, execAll ((cs.take k).map .bstep) s = .next t ∧ t.regs.busy = false ∧
      t.rsp = s.rsp ++ (ws ++ [w]) ∧ (rspDone w = true ∨ rspSt w = 5) := by
  induction cs generalizing s with
  | nil => exact absurd enough (requestBits_lt inv below busy bounded).not_ge
  | cons c cs ih =>
    obtain ⟨r, x, hc⟩ := exists_completes (.bstep c) s
    rcases hc.bstep_ends_or_advances inv below busy bounded with ⟨idle, ended⟩ | ⟨busy', one⟩
    · refine ⟨1, Nat.le_add_left .., _, x.word r.busy, [], hc.execAll_cons [], idle, rfl, ?_⟩
      rw [rspDone_word, rspSt_word]
      exact ended.imp_right (congrArg Status.code)
    · obtain ⟨-, req⟩ := hc.bstep_frame
      have enough' : 3 * r.req.toNat * s.cfg.maxBatches.toNat ≤ r.requestBits + cs.length := by
        rw [req, one, Nat.add_right_comm]
        exact enough
      obtain ⟨k, le, t, w, ws, run, idle, rsp, ended⟩ := ih (s := s.After r (x.word r.busy)) (hc.keeps_inv inv)
        (hc.keeps_belowRetryBound below _) busy' bounded enough'
      exact ⟨k + 1, Nat.succ_le_succ le, t, w, x.word r.busy :: ws, (hc.execAll_cons _).trans run, idle,
        rsp.trans (List.append_assoc ..), ended⟩

/-! ## A request that delivers nothing -/

/-- A request that has no bit and draws raw bits that are all `b`: the LFSR is 0 and the chaotic bits are `b`. -/
structure Regs.Starved (b : Bit) (r : Regs) : Prop where
  busy : r.busy = true
  lfsr : r.lfsr = 0
  wants : r.req ≠ 0
  empty : r.coll = 0
  pair : r.pv = true → r.pb = b

/-- Two equal raw bits give nothing. -/
theorem Regs.Starved.delivered_eq_none {b : Bit} {r : Regs} (h : r.Starved b) : r.delivered b = none := by
  have equal : ¬(r.pv = true ∧ r.pb ≠ r.nextRaw b ∧ r.coll.toNat < r.req.toNat) := by
    rintro ⟨pv, differs, -⟩
    exact differs (by simp [Regs.nextRaw, h.pair pv, h.lfsr])
  rw [delivered_eq_nextOut, Regs.nextOut, if_neg equal]

/-- A starved request stays starved where no bound ends it (R166). -/
theorem Completes.bstep_starved {s : State} {b : Bit} {r : Regs} {x : Response} (h : Completes s (.bstep b) r x)
    (unbounded : s.cfg.maxBatches = 0) (starved : s.regs.Starved b) : r.Starved b ∧ x.output = [] := by
  have none := starved.delivered_eq_none
  have coll : (s.regs.takeRaw b).coll = 0 := by
    rw [Regs.takeRaw_coll, none, starved.empty]
    rfl
  have lfsr : (lfsrNext s.regs.lfsr).1 = 0 := by
    rw [starved.lfsr]
    rfl
  have output : (Response.emit (s.regs.delivered b)).output = [] := by rw [none, output_emit, Option.toList_none]
  cases h with
  | bstepInside =>
    obtain ⟨pv, pb⟩ := feedRaw_eq s.regs b
    refine ⟨⟨starved.busy, lfsr, starved.wants, coll, fun first => ?_⟩, output⟩
    have held : s.regs.pv = false := by simpa using pv.symm.trans first
    exact pb.trans (by simp [held, Regs.nextRaw, starved.lfsr])
  | bstepDone _ _ _ full => exact absurd (full.symm.trans coll) starved.wants
  | bstepExhausted _ _ _ _ spent => exact absurd unbounded ((retryExhausted_iff _ _).mp spent).1
  | bstepNextBatch => exact ⟨⟨starved.busy, lfsr, starved.wants, coll, nofun⟩, output⟩
  | turnedAwayBusy needs | turnedAwayUnseeded needs => cases needs
  | bstepIdle _ idle => exact absurd (idle.symm.trans starved.busy) nofun

theorem execAll_bstep_starved {b : Bit} (n : Nat) {s : State} (unbounded : s.cfg.maxBatches = 0)
    (starved : s.regs.Starved b) :
    ∃ t ws, execAll (List.replicate n (.bstep b)) s = .next t ∧ t.regs.Starved b ∧ t.rsp = s.rsp ++ ws ∧
      outputBits ws = [] := by
  induction n generalizing s with
  | zero => exact ⟨s, [], rfl, starved, by simp, rfl⟩
  | succ n ih =>
    obtain ⟨r, x, hc⟩ := exists_completes (.bstep b) s
    obtain ⟨starved', output⟩ := hc.bstep_starved unbounded starved
    obtain ⟨t, ws, run, starvedT, rsp, outputs⟩ := ih (s := s.After r (x.word r.busy)) unbounded starved'
    refine ⟨t, x.word r.busy :: ws, (hc.execAll_cons _).trans run, starvedT, rsp.trans (List.append_assoc ..), ?_⟩
    rw [outputBits_word, output, outputs, List.append_nil]

/-! ## The host's own loop -/

/-- A batch of the host's loop returns the survivors of its raw bits, paired afresh, and leaves the LFSR after them
(R164). -/
theorem loopBatch_ready {s : State} (ready : s.Ready) (cs : List Bit) :
    ∃ u, loopBatch cs s = some (batchSurvivors s.regs.lfsr cs, u) ∧ u.Ready ∧
      u.regs.lfsr = lfsrState s.regs.lfsr cs.length := by
  obtain ⟨t, raws, regsT, rspT⟩ : ∃ t, execAll (cs.map .raw) s = .next t ∧
      t.regs = s.regs.countRaws cs.length ∧ t.rsp = s.rsp ++ bitResponses (rawBits s.regs.lfsr cs) :=
    ⟨_, execAll_raw cs ready, rfl, rfl⟩
  have bitsT : newOutputs s t = rawBits s.regs.lfsr cs := by
    rw [newOutputs, newResponses_append s t _ rspT, outputBits_bitResponses]
  obtain ⟨idle, seeded⟩ := ready
  have idleT : t.regs.busy = false := regsT ▸ idle
  obtain ⟨u, ws, exts, regsU, rspU, bitsU⟩ :=
    execAll_ext_eflush (rawBits s.regs.lfsr cs) (s := t.After t.regs.clearPair (outputField none)) idleT rfl
  have survivors : newOutputs t u = batchSurvivors s.regs.lfsr cs := by
    rw [newOutputs, newResponses_append t u _ (rspU.trans (List.append_assoc ..))]
    exact (outputBits_outputField none ws).trans bitsU
  have flushed := (execAll_cons (exec_eflush_idle idleT) _).trans exts
  refine ⟨u, ?_, ⟨?_, ?_⟩, ?_⟩
  · simp only [loopBatch, raws, bitsT, List.cons_append, flushed, survivors]
  · rw [regsU]
    exact idleT
  · rw [regsU, State.after_regs, regsT]
    exact seeded
  · rw [regsU, State.after_regs, regsT]
    rfl

section
variable {c fuel done : Nat} {buffer : List Bit} {s : State} (cs : List Bit)

theorem loopBalanced_full (full : c ≤ buffer.length) :
    loopBalanced c fuel done buffer s cs = some ⟨buffer.take c, done, s.regs.lfsr⟩ := by
  cases fuel <;> exact if_neg full.not_gt

theorem loopBalanced_spent (short : buffer.length < c) : loopBalanced c 0 done buffer s cs = none :=
  if_pos short

theorem loopBalanced_more (short : buffer.length < c) {bits : List Bit} {u : State}
    (batch : loopBatch (cs.take (kOver * c)) s = some (bits, u)) :
    loopBalanced c (fuel + 1) done buffer s cs =
      loopBalanced c fuel (done + 1) (buffer ++ bits) u (cs.drop (kOver * c)) := by
  rw [loopBalanced, if_pos short, batch]

end

/-- Batch by batch the host's loop is the document's function (R160, R164). -/
theorem loopBalanced_eq_generateBalanced {c fuel done : Nat} {buffer cs : List Bit} {s : State} (ready : s.Ready)
    (enough : kOver * c * fuel ≤ cs.length) :
    loopBalanced c fuel done buffer s cs = generateBalanced c fuel done buffer s.regs.lfsr cs := by
  induction fuel generalizing done buffer cs s with
  | zero =>
    rcases lt_or_ge buffer.length c with short | full
    · rw [loopBalanced_spent cs short, generateBalanced_spent _ cs short]
    · rw [loopBalanced_full cs full, generateBalanced_full _ cs full]
  | succ fuel ih =>
    rcases lt_or_ge buffer.length c with short | full
    · rw [Nat.mul_succ] at enough
      obtain ⟨u, batch, readyU, lfsr⟩ := loopBatch_ready ready (cs.take (kOver * c))
      rw [List.length_take_of_le (by omega)] at lfsr
      rw [loopBalanced_more cs short batch, generateBalanced_more _ cs short, ← lfsr]
      exact ih readyU (by rw [List.length_drop]; omega)
    · rw [loopBalanced_full cs full, generateBalanced_full _ cs full]

/-! ## Two runs that differ in `ERRS` -/

/-- Two states that a command other than `RDREG 1` does not tell apart: they agree in the parameter and in every
register but `ERRS`. -/
def State.AgreesWith (s s' : State) : Prop := s'.cfg = s.cfg ∧ ∃ e, s'.regs = { s.regs with errs := e }

/-- Only STATUS shows `ERRS` (R33). -/
theorem Regs.view_withErrs (r : Regs) (e : ErrBits) {sel : Sel} (notStatus : sel ≠ 1) :
    ({ r with errs := e } : Regs).view sel = r.view sel := by
  have notOne : sel.toNat ≠ 1 := fun one => notStatus (BitVec.eq_of_toNat_eq one)
  refine Option.ext fun v => ?_
  rw [Regs.view_eq_some_iff, Regs.view_eq_some_iff]
  simp [Regs.selectorRows, notOne]

/-- Such a command goes the same way in both states: it answers the same response, and the states agree again. -/
theorem Completes.agrees {s s' : State} {i : Instr} {r : Regs} {x : Response} (h : Completes s i r x)
    (agree : s.AgreesWith s') (notStatus : i ≠ .rdreg 1) :
    ∃ e, Completes s' i { r with errs := e } x := by
  obtain ⟨regs, cfg, pending, rsp⟩ := s'
  obtain ⟨rfl, e, rfl⟩ := agree
  cases h with
  | nop => exact ⟨_, .nop⟩
  | seed imm idle => exact ⟨_, .seed imm idle⟩
  | lstep idle seeded => exact ⟨_, .lstep idle seeded⟩
  | raw c idle seeded => exact ⟨_, .raw c idle seeded⟩
  | ext b idle => exact ⟨_, .ext b idle⟩
  | eflush idle => exact ⟨_, .eflush idle⟩
  | breqZero idle seeded => exact ⟨_, .breqZero idle seeded⟩
  | breq n idle seeded positive => exact ⟨_, .breq n idle seeded positive⟩
  | bstepInside c busy inside => exact ⟨_, .bstepInside c busy inside⟩
  | bstepDone c busy last full => exact ⟨_, .bstepDone c busy last full⟩
  | bstepExhausted c busy last short spent => exact ⟨_, .bstepExhausted c busy last short spent⟩
  | bstepNextBatch c busy last short more => exact ⟨_, .bstepNextBatch c busy last short more⟩
  | babort busy => exact ⟨_, .babort busy⟩
  | babortIdle idle => exact ⟨_, .babortIdle idle⟩
  | rdreg view => exact ⟨e, .rdreg ((Regs.view_withErrs _ e (by simpa using notStatus)).trans view)⟩
  | turnedAwayBusy needs busy => exact ⟨_, .turnedAwayBusy needs busy⟩
  | turnedAwayUnseeded needs idle unseeded => exact ⟨_, .turnedAwayUnseeded needs idle unseeded⟩
  | bstepIdle c idle => exact ⟨_, .bstepIdle c idle⟩
  | rdregReserved reserved =>
    exact ⟨_, .rdregReserved ((Regs.view_withErrs _ e (by simpa using notStatus)).trans reserved)⟩

theorem State.AgreesWith.after {s s' : State} (agree : s.AgreesWith s') (r : Regs) (e : ErrBits) (w w' : Word) :
    (s.After r w).AgreesWith (s'.After { r with errs := e } w') :=
  ⟨agree.1, e, rfl⟩

/-- So no sequence of such commands tells the states apart. -/
theorem execAll_agrees {is : List Instr} {s s' : State} (agree : s.AgreesWith s') (notStatus : .rdreg 1 ∉ is) :
    ∃ t t' ws, execAll is s = .next t ∧ execAll is s' = .next t' ∧ t.rsp = s.rsp ++ ws ∧
      t'.rsp = s'.rsp ++ ws ∧ t.AgreesWith t' := by
  induction is generalizing s s' with
  | nil => exact ⟨s, s', [], rfl, rfl, by simp, by simp, agree⟩
  | cons i is ih =>
    rw [List.mem_cons, not_or] at notStatus
    obtain ⟨here, later⟩ := notStatus
    obtain ⟨r, x, h⟩ := exists_completes i s
    obtain ⟨e, h'⟩ := h.agrees agree (Ne.symm here)
    obtain ⟨t, t', ws, run, run', rsp, rsp', agreeT⟩ := ih (agree.after r e (x.word r.busy) (x.word r.busy)) later
    exact ⟨t, t', x.word r.busy :: ws, (h.execAll_cons is).trans run, (h'.execAll_cons is).trans run',
      rsp.trans (List.append_assoc ..), rsp'.trans (List.append_assoc ..), agreeT⟩

/-- `SEED` erases what two idle states with one bound differ in, `ERRS` apart (R104). -/
theorem seedWith_agrees {s s' : State} (idle : s.regs.busy = false) (idle' : s'.regs.busy = false)
    (cfg : s'.cfg = s.cfg) (imm : Half) (w w' : Word) :
    (s.After (s.regs.seedWith imm) w).AgreesWith (s'.After (s'.regs.seedWith imm) w') := by
  refine ⟨cfg, s'.regs.errs, ?_⟩
  simp [Regs.seedWith, idle, idle']

/-! ## The obligations on sequences -/

/-- Settles O52, by induction on the bound of both loops. -/
theorem hostLoopProducesTheDocumentsBits : Obligations.HostLoopProducesTheDocumentsBits :=
  fun _ _ _ _ ready _ enough => loopBalanced_eq_generateBalanced ready enough

/-- Settles O53: `BREQ` clears `COLL`, and every `BSTEP` counts what it delivers. -/
theorem deliveredBitsAreCountedByColl : Obligations.DeliveredBitsAreCountedByColl := by
  intro c cs s ready positive
  have first := exec_breq_ready ready positive
  obtain ⟨t, ws, run, rsp, coll, req, le⟩ :=
    execAll_bstep_coll cs (s.After (s.regs.startRequest c) (activeResponse none))
  have responses : newResponses s t = activeResponse none :: ws :=
    newResponses_append s t _ (rsp.trans (List.append_assoc ..))
  have reqC : t.regs.req = c := req
  refine ⟨t, (execAll_cons first _).trans run, ?_, reqC ▸ le (Nat.zero_le _), reqC⟩
  rw [newOutputs, responses, coll]
  simp

/-- Settles O55: `BREQ` gives a request all its raw bits, and each `BSTEP` consumes one or ends it. -/
theorem boundedRequestEnds : Obligations.BoundedRequestEnds := by
  intro c cs s ready positive bounded len
  obtain ⟨idle, seeded⟩ := ready
  have start := Completes.breq c idle seeded positive
  obtain ⟨k, le, t, w, ws, run, idleT, rsp, ended⟩ :=
    exists_bsteps_end cs (s := s.After (s.regs.startRequest c) (({} : Response).word true))
      (startRequest_inv seeded positive)
      (fun _ bounded => BitVec.toNat_pos_of_ne_zero bounded) rfl bounded
      (len ▸ Nat.le_add_left ..)
  exact ⟨k, le, t, w, _ :: ws, (start.execAll_cons _).trans run, idleT,
    newResponses_append s t _ (rsp.trans (List.append_assoc ..)), ended⟩

/-- Settles O56: every raw bit is the chaotic bit, so no pair gives a bit. -/
theorem constantStreamNeverEndsARequest : Obligations.ConstantStreamNeverEndsARequest := by
  intro c b n s ready positive unbounded lfsr
  obtain ⟨t, ws, run, starved, rsp, outputs⟩ :=
    execAll_bstep_starved n (s := s.After (s.regs.startRequest c) (activeResponse none)) unbounded
      (b := b) ⟨rfl, lfsr, positive, rfl, nofun⟩
  refine ⟨t, (execAll_cons (exec_breq_ready ready positive) _).trans run, starved.busy, ?_⟩
  have responses : newResponses s t = activeResponse none :: ws :=
    newResponses_append s t _ (rsp.trans (List.append_assoc ..))
  rw [newOutputs, responses, outputBits_activeResponse, outputs]
  rfl

/-- Settles O57: `SEED` makes the two states agree but for `ERRS`, and no command but `RDREG 1` tells them apart. -/
theorem seedErasesTheHistory : Obligations.SeedErasesTheHistory := by
  intro imm is s₁ s₂ idle₁ idle₂ cfg notStatus
  have seed₁ := Completes.seed imm idle₁
  have seed₂ := Completes.seed imm idle₂
  obtain ⟨t₁, t₂, ws, run₁, run₂, rsp₁, rsp₂, -, e, regs⟩ :=
    execAll_agrees (seedWith_agrees idle₁ idle₂ cfg.symm imm _ _) notStatus
  have new₁ := newResponses_append s₁ t₁ _ (rsp₁.trans (List.append_assoc ..))
  have new₂ := newResponses_append s₂ t₂ _ (rsp₂.trans (List.append_assoc ..))
  refine ⟨t₁, t₂, (seed₁.execAll_cons is).trans run₁, (seed₂.execAll_cons is).trans run₂, ?_, by rw [regs]⟩
  rw [new₁, new₂, Regs.seedWith_busy, Regs.seedWith_busy, idle₁, idle₂]

end Sys2Proof.Machine
end

section
/-! SUPPORT and PROOFS of the statements on the host procedures (spec/44_control.md section 3): packing, the host's
request BSTEP by BSTEP, the keystream, and the obligations O54, O58, O59 and O60. -/
namespace Sys2Proof.Machine

/-! ## Packing -/

theorem bitsValue_cons (b : Bit) (bs : List Bit) : bitsValue (b :: bs) = Nat.bit b (bitsValue bs) := by
  cases b <;> simp [bitsValue, Nat.bit, Nat.add_comm]

theorem testBit_bitsValue (bs : List Bit) (i : Nat) : (bitsValue bs).testBit i = bs.getD i false := by
  induction bs generalizing i with
  | nil => simp [bitsValue]
  | cons b bs ih =>
    rw [bitsValue_cons]
    cases i with
    | zero => simp
    | succ i => simpa [Nat.testBit_bit_succ] using ih i

/-- Unpacking a group gives its bits. -/
theorem bitsLsbFirst_ofNat_bitsValue (bs : List Bit) :
    bitsLsbFirst (BitVec.ofNat bs.length (bitsValue bs)) = bs := by
  refine List.ext_getElem (by simp [bitsLsbFirst]) fun i _ hi => ?_
  have bit : (BitVec.ofNat bs.length (bitsValue bs)).getLsbD i = bs[i] := by
    rw [BitVec.getLsbD_ofNat, testBit_bitsValue]
    simp [hi]
  simpa [bitsLsbFirst] using bit

/-- Packing the bits of a value gives the value. -/
theorem ofNat_bitsValue_bitsLsbFirst {w : Nat} (v : BitVec w) : BitVec.ofNat w (bitsValue (bitsLsbFirst v)) = v := by
  refine BitVec.eq_of_getLsbD_eq fun i hi => ?_
  rw [BitVec.getLsbD_ofNat, testBit_bitsValue]
  simp [bitsLsbFirst, hi]

/-- What `packBytes` and `packNibbles` have in common: the bits are taken in groups of `w`. -/
structure PacksGroups (w : Nat) (pack : List Bit → List (BitVec w)) : Prop where
  nil : pack [] = []
  group : ∀ bs rest, bs.length = w → pack (bs ++ rest) = BitVec.ofNat w (bitsValue bs) :: pack rest

theorem packBytes_packsGroups : PacksGroups 8 packBytes :=
  ⟨rfl, fun bs _ length => match bs, length with | [_, _, _, _, _, _, _, _], _ => rfl⟩

theorem packNibbles_packsGroups : PacksGroups 4 packNibbles :=
  ⟨rfl, fun bs _ length => match bs, length with | [_, _, _, _], _ => rfl⟩

/-- Whole groups are packed into one value each, whose bits are the group (R53). -/
theorem PacksGroups.unpack {w : Nat} {pack : List Bit → List (BitVec w)} (packs : PacksGroups w pack) {n : Nat}
    {bits : List Bit} (whole : bits.length = w * n) :
    (pack bits).length = n ∧ (pack bits).flatMap bitsLsbFirst = bits := by
  induction n generalizing bits with
  | zero =>
    obtain rfl := List.eq_nil_of_length_eq_zero whole
    simp [packs.nil]
  | succ n ih =>
    rw [Nat.mul_succ] at whole
    have first : (bits.take w).length = w := List.length_take_of_le (by omega)
    obtain ⟨length, unpacked⟩ := ih (bits := bits.drop w) (by rw [List.length_drop]; omega)
    have group : bitsLsbFirst (BitVec.ofNat w (bitsValue (bits.take w))) = bits.take w := by
      have h := bitsLsbFirst_ofNat_bitsValue (bits.take w)
      rwa [first] at h
    have packed := packs.group (bits.take w) (bits.drop w) first
    rw [List.take_append_drop] at packed
    rw [packed, List.length_cons, length, List.flatMap_cons, unpacked, group, List.take_append_drop]
    exact ⟨rfl, rfl⟩

/-- Packing the bits of values gives the values. -/
theorem PacksGroups.pack_flatMap {w : Nat} {pack : List Bit → List (BitVec w)} (packs : PacksGroups w pack)
    (vs : List (BitVec w)) : pack (vs.flatMap bitsLsbFirst) = vs := by
  induction vs with
  | nil => exact packs.nil
  | cons v vs ih =>
    rw [List.flatMap_cons, packs.group _ _ (by simp [bitsLsbFirst]), ofNat_bitsValue_bitsLsbFirst, ih]

/-! ## A request of the host -/

section
variable {s : State} {c : Bit} {r : Regs} {x : Response}

/-- One `BSTEP` of the host's request, by its response (R194). -/
theorem driveRequest_cons (h : Completes s (.bstep c) r x) (cs got : List Bit) :
    driveRequest (c :: cs) got s =
      if x.done = true then (.result (got ++ x.output), s.After r (x.word r.busy), cs)
      else if x.st = .ok then driveRequest cs (got ++ x.output) (s.After r (x.word r.busy))
      else if x.st = .exhausted then (.exhausted, s.After r (x.word r.busy), cs)
      else (.failed x.st.code, s.After r (x.word r.busy), c :: cs) := by
  rw [driveRequest, h.exec_eq, complete_eq]
  simp only [State.lastResponse_of_after, rspDone_word, rspSt_word, newOutputs_after, Status.code_inj]

/-- The request's `BREQ`, by its response (R194). -/
theorem generateBalancedBits_of_completes {count : Nat} (fits : count ≤ 65535)
    (h : Completes s (.breq (BitVec.ofNat 16 count)) r x) (cs : List Bit) :
    generateBalancedBits count cs s =
      if x.done = true then (.result [], s.After r (x.word r.busy), cs)
      else if x.st = .ok then driveRequest cs [] (s.After r (x.word r.busy))
      else (.failed x.st.code, s.After r (x.word r.busy), cs) := by
  rw [generateBalancedBits, if_neg fits.not_gt, h.exec_eq, complete_eq]
  simp only [State.lastResponse_of_after, rspDone_word, rspSt_word, Status.code_inj]

/-- A `BSTEP` reports DONE when `COLL` has reached `REQ` (R162). -/
theorem Completes.bstep_done_full (h : Completes s (.bstep c) r x) (done : x.done = true) : r.coll = r.req := by
  cases h with
  | bstepDone _ _ _ full => exact full
  | turnedAwayBusy needs | turnedAwayUnseeded needs => cases needs
  | _ => cases done

/-- A `BSTEP` leaves a request active when it reports OK without DONE, and only then (R162). -/
theorem Completes.bstep_busy_iff (h : Completes s (.bstep c) r x) :
    r.busy = true ↔ x.st = .ok ∧ x.done = false := by
  cases h with
  | turnedAwayBusy needs | turnedAwayUnseeded needs => cases needs
  | bstepInside _ busy | bstepNextBatch _ busy => simp [busy]
  | bstepIdle _ idle => simp [idle]
  | _ => simp

end

/-- A request that is driven to DONE has delivered what `COLL` counts, which is `REQ` (R165). -/
theorem driveRequest_result {cs got left bits : List Bit} {s t : State}
    (run : driveRequest cs got s = (.result bits, t, left)) (count : got.length = s.regs.coll.toNat) :
    bits.length = s.regs.req.toNat := by
  induction cs generalizing got s with
  | nil => cases run
  | cons c cs ih =>
    obtain ⟨r, x, h⟩ := exists_completes (.bstep c) s
    obtain ⟨coll, -⟩ := h.bstep_coll
    obtain ⟨-, req⟩ := h.bstep_frame
    have count' : (got ++ x.output).length = r.coll.toNat := by rw [List.length_append, count, coll]
    rw [driveRequest_cons h] at run
    split at run
    case isTrue done =>
      cases run
      rw [count', h.bstep_done_full done, req]
    case isFalse =>
      split at run
      case isTrue => exact (ih run count').trans (congrArg _ req)
      case isFalse => split at run <;> cases run

/-- The ways of `BREQ` that report OK: the request of no bits, and a request that begins (R161). -/
theorem Completes.breq_ok_cases {s : State} {n : Half} {r : Regs} {x : Response} (h : Completes s (.breq n) r x) :
    (n = 0 ∧ x.done = true) ∨
      (s.regs.busy = false ∧ r = s.regs.startRequest n ∧ x = {}) ∨ (x.done = false ∧ x.st ≠ .ok) := by
  cases h with
  | breqZero => exact .inl ⟨rfl, rfl⟩
  | breq _ idle => exact .inr (.inl ⟨idle, rfl, rfl⟩)
  | turnedAwayBusy | turnedAwayUnseeded => exact .inr (.inr ⟨rfl, nofun⟩)

/-- What the host's request is after its `BREQ`: refused, turned away, done at once, or driven on (R194). -/
theorem generateBalancedBits_cases (count : Nat) (cs : List Bit) (s : State) :
    (∃ t left, generateBalancedBits count cs s = (.refusedCount, t, left)) ∨
    (∃ st t left, generateBalancedBits count cs s = (.failed st, t, left)) ∨
    (count = 0 ∧ ∃ t left, generateBalancedBits count cs s = (.result [], t, left)) ∨
    (count ≤ 65535 ∧ s.regs.busy = false ∧ ∃ w, generateBalancedBits count cs s =
      driveRequest cs [] (s.After (s.regs.startRequest (BitVec.ofNat 16 count)) w)) := by
  rcases lt_or_ge 65535 count with large | fits
  · exact .inl ⟨s, cs, if_pos large⟩
  · obtain ⟨r, x, h⟩ := exists_completes (.breq (BitVec.ofNat 16 count)) s
    rw [generateBalancedBits_of_completes fits h]
    rcases h.breq_ok_cases with ⟨zero, done⟩ | ⟨idle, rfl, rfl⟩ | ⟨notDone, notOk⟩
    · have wraps : count % 2 ^ 16 = 0 := congrArg BitVec.toNat zero
      exact .inr (.inr (.inl ⟨by omega, _, _, if_pos done⟩))
    · exact .inr (.inr (.inr ⟨fits, idle, _, rfl⟩))
    · exact .inr (.inl ⟨_, _, _, by rw [if_neg (by simp [notDone]), if_neg notOk]⟩)

theorem generateBalancedBits_result_length {count : Nat} {cs left bits : List Bit} {s t : State}
    (run : generateBalancedBits count cs s = (.result bits, t, left)) : bits.length = count := by
  rcases generateBalancedBits_cases count cs s with ⟨_, _, h⟩ | ⟨_, _, _, h⟩ | ⟨zero, _, _, h⟩ | ⟨fits, -, w, h⟩
  · cases h.symm.trans run
  · cases h.symm.trans run
  · cases h.symm.trans run
    exact zero.symm
  · rw [driveRequest_result (h.symm.trans run) rfl]
    exact Nat.mod_eq_of_lt (by omega)

/-! ## The keystream -/

/-- States that agree but for `ERRS` drive a request to the same end. -/
theorem driveRequest_agrees (cs got : List Bit) {s s' : State} (agree : s.AgreesWith s') :
    (driveRequest cs got s').1 = (driveRequest cs got s).1 := by
  induction cs generalizing got s s' with
  | nil => rfl
  | cons c cs ih =>
    obtain ⟨r, x, h⟩ := exists_completes (.bstep c) s
    obtain ⟨e, h'⟩ := h.agrees agree nofun
    have later := ih (got ++ x.output) (agree.after r e (x.word r.busy) (x.word r.busy))
    simp only [driveRequest_cons h, driveRequest_cons h', apply_ite Prod.fst, later]

theorem generateBalancedBits_agrees (count : Nat) (cs : List Bit) {s s' : State} (agree : s.AgreesWith s') :
    (generateBalancedBits count cs s').1 = (generateBalancedBits count cs s).1 := by
  rcases lt_or_ge 65535 count with large | fits
  · rw [generateBalancedBits, generateBalancedBits, if_pos large, if_pos large]
  · obtain ⟨r, x, h⟩ := exists_completes (.breq (BitVec.ofNat 16 count)) s
    obtain ⟨e, h'⟩ := h.agrees agree nofun
    have later := driveRequest_agrees cs [] (agree.after r e (x.word r.busy) (x.word r.busy))
    simp only [generateBalancedBits_of_completes fits h, generateBalancedBits_of_completes fits h',
      apply_ite Prod.fst, later]

/-- The keystream depends on the seed, the chaotic bits and the bound alone (R192, R197). -/
theorem keystream_congr {s t : State} (cfg : t.cfg = s.cfg) (idle : s.regs.busy = false) (idle' : t.regs.busy = false)
    (seed : Int) (len : Nat) (cs : List Bit) : keystream seed len cs t = keystream seed len cs s := by
  unfold keystream
  cases hg : constructGenerator seed with
  | none => simp [startGenerator, hg]
  | some g =>
    rw [startGenerator_idle hg idle, startGenerator_idle hg idle']
    dsimp only
    rw [generateBalancedBits_agrees len cs (seedWith_agrees idle idle' cfg _ 0 0)]

/-- There is a keystream only where the generator could be constructed, and it is as long as asked for. -/
theorem keystream_eq_some {seed : Int} {len : Nat} {cs ks : List Bit} {s : State}
    (h : keystream seed len cs s = some ks) : s.regs.busy = false ∧ ks.length = len := by
  have idle : s.regs.busy = false := by
    by_contra busy
    rw [keystream, startGenerator_busy (eq_true_of_ne_false busy)] at h
    cases h
  refine ⟨idle, ?_⟩
  unfold keystream at h
  split at h
  · cases h
  next g t _ =>
    rcases hrun : generateBalancedBits len cs t with ⟨e, u, left⟩
    rw [hrun] at h
    split at h
    next bits he =>
      cases h
      obtain rfl : e = .result ks := he
      exact generateBalancedBits_result_length hrun
    · cases h

/-- The XOR with the keystream undoes itself (R197). -/
theorem xorBits_xorBits {xs ks : List Bit} (length : xs.length = ks.length) : xorBits (xorBits xs ks) ks = xs := by
  refine List.ext_getElem (by simp [xorBits, length]) fun i _ _ => ?_
  simp [xorBits]

/-! ## A request that fails -/

/-- `n` `BSTEP`s have carried on the request for which `s` gave the registers, it is still active in `t`, and nothing
that outlives the request differs but the LFSR and `RAWCNT` (R162). -/
structure State.CarriedOn (s : State) (n : Nat) (t : State) : Prop where
  cfg : t.cfg = s.cfg
  busy : t.regs.busy = true
  errs : t.regs.errs = s.regs.errs
  balcnt : t.regs.balcnt = s.regs.balcnt
  lfsr : t.regs.lfsr = lfsrState s.regs.lfsr n
  rawcnt : t.regs.rawcnt = s.regs.rawcnt + BitVec.ofNat 32 n

/-- The request for which `s` gave the registers has ended in `t` by EXHAUSTED (R162, R195). -/
structure State.ExhaustedIn (s t : State) : Prop where
  cfg : t.cfg = s.cfg
  busy : t.regs.busy = false
  errs : t.regs.errs = s.regs.errs ||| 0b10000
  balcnt : t.regs.balcnt = s.regs.balcnt
  status : rspSt t.lastResponse = 5

theorem startRequest_carriedOn (s : State) (n : Half) (w : Word) :
    s.CarriedOn 0 (s.After (s.regs.startRequest n) w) :=
  ⟨rfl, rfl, rfl, rfl, rfl, (BitVec.add_zero _).symm⟩

section
variable {s u : State} {n : Nat} {c : Bit} {r : Regs} {x : Response}

/-- A `BSTEP` that reports OK without DONE carries the request on. -/
theorem State.CarriedOn.bstep (carried : s.CarriedOn n u) (h : Completes u (.bstep c) r x) (reportsOk : x.st = .ok)
    (notDone : x.done = false) (w : Word) : s.CarriedOn (n + 1) (u.After r w) := by
  have consumed : chaosConsumed (.bstep c) (x.word false) = 1 := by simp [chaosConsumed_word, reportsOk]
  obtain ⟨rawcnt, lfsr, -⟩ := h.rawcnt_and_lfsr nofun false
  rw [consumed] at rawcnt
  exact {
    cfg := carried.cfg
    busy := h.bstep_busy_iff.mpr ⟨reportsOk, notDone⟩
    errs := by simp [h.errs_eq, reportsOk, Status.errBit, carried.errs]
    balcnt := by simp [h.balcnt_eq nofun, notDone, carried.balcnt]
    lfsr := by rw [State.after_regs, lfsr consumed, carried.lfsr, lfsrState]
    rawcnt := by rw [State.after_regs, rawcnt, carried.rawcnt, BitVec.ofNat_add, BitVec.add_assoc] }

/-- A `BSTEP` that reports EXHAUSTED ends it. -/
theorem State.CarriedOn.exhausted (carried : s.CarriedOn n u) (h : Completes u (.bstep c) r x)
    (exhausted : x.st = .exhausted) (notDone : x.done = false) :
    s.ExhaustedIn (u.After r (x.word r.busy)) where
  cfg := carried.cfg
  busy := by
    have stopped := mt h.bstep_busy_iff.mp (by simp [exhausted])
    simpa using stopped
  errs := by simp [h.errs_eq, exhausted, Status.errBit, carried.errs]
  balcnt := by simp [h.balcnt_eq nofun, notDone, carried.balcnt]
  status := by simp [exhausted, Status.code]

end

/-- How driving an active request can end (R194): with a result or turned away, exhausted, or still active when the
chaotic bits run out. -/
theorem driveRequest_ends {cs : List Bit} (got : List Bit) {s u : State} {n : Nat} (carried : s.CarriedOn n u) :
    ((driveRequest cs got u).1.needsSeed = false ∧ (driveRequest cs got u).1 ≠ .moreChaos) ∨
      ((driveRequest cs got u).1 = .exhausted ∧ s.ExhaustedIn (driveRequest cs got u).2.1) ∨
      ∃ t, driveRequest cs got u = (.moreChaos, t, []) ∧ s.CarriedOn (n + cs.length) t := by
  induction cs generalizing got u n with
  | nil => exact .inr (.inr ⟨u, rfl, carried⟩)
  | cons c cs ih =>
    obtain ⟨r, x, h⟩ := exists_completes (.bstep c) u
    rw [driveRequest_cons h]
    split
    case isTrue => exact .inl ⟨rfl, nofun⟩
    case isFalse notDone =>
      rw [Bool.not_eq_true] at notDone
      split
      case isTrue reportsOk =>
        rw [List.length_cons, Nat.add_comm cs.length, ← Nat.add_assoc]
        exact ih _ (carried.bstep h reportsOk notDone _)
      case isFalse =>
        split
        case isTrue exhausted => exact .inr (.inl ⟨rfl, carried.exhausted h exhausted notDone⟩)
        case isFalse => exact .inl ⟨rfl, nofun⟩

/-- The host cancels nothing but a request that is still active. -/
theorem generateOrCancel_eq {count : Nat} {cs : List Bit} {s : State}
    (ended : (generateBalancedBits count cs s).1 ≠ .moreChaos) :
    generateOrCancel count cs s = generateBalancedBits count cs s := by
  unfold generateOrCancel
  split
  next h => exact absurd (congrArg Prod.fst h) ended
  · rfl

/-- How a request can end that the host cancels if the chaotic bits run out (R195). -/
theorem generateOrCancel_ends (count : Nat) (cs : List Bit) (s : State) :
    (generateOrCancel count cs s).1.needsSeed = false ∨
      ((generateOrCancel count cs s).1 = .exhausted ∧ s.ExhaustedIn (generateOrCancel count cs s).2.1) ∨
      ∃ t, generateOrCancel count cs s = (.cancelled, t.After t.regs.cancelRequest 0, []) ∧
        s.CarriedOn cs.length t := by
  have notBegun {e : RequestEnd} (h : ∃ t left, generateBalancedBits count cs s = (e, t, left))
      (he : e ≠ .moreChaos ∧ e.needsSeed = false) : (generateOrCancel count cs s).1.needsSeed = false := by
    obtain ⟨t, left, h⟩ := h
    rw [generateOrCancel_eq (by rw [h]; exact he.1), h]
    exact he.2
  rcases generateBalancedBits_cases count cs s with h | ⟨st, h⟩ | ⟨-, h⟩ | ⟨-, -, w, h⟩
  · exact .inl (notBegun h ⟨nofun, rfl⟩)
  · exact .inl (notBegun h ⟨nofun, rfl⟩)
  · exact .inl (notBegun h ⟨nofun, rfl⟩)
  · rcases driveRequest_ends (cs := cs) [] (startRequest_carriedOn s (BitVec.ofNat 16 count) w) with
      ⟨noSeed, ended⟩ | ⟨exhausted, ended⟩ | ⟨t, more, carried⟩
    · rw [← h] at noSeed ended
      exact .inl (by rwa [generateOrCancel_eq ended])
    · rw [← h] at exhausted ended
      have same := generateOrCancel_eq (count := count) (cs := cs) (s := s) (by rw [exhausted]; nofun)
      rw [same]
      exact .inr (.inl ⟨exhausted, ended⟩)
    · rw [Nat.zero_add] at carried
      refine .inr (.inr ⟨t, ?_, carried⟩)
      rw [generateOrCancel, h, more]
      dsimp only
      rw [cancelBalancedBits_end, cancelBalancedBits_busy carried.busy]

theorem seedValue_subSeed (n : Nat) : seedValue (subSeed n) = subSeed n := by
  have idempotent (v : Half) : seedValue (seedValue v) = seedValue v := by
    unfold seedValue
    split
    · rfl
    · simp_all
  exact idempotent _

/-- Constructing the generator again after such an end gives the registers of a fresh one, `ERRS` kept (R104, R195). -/
theorem restoreGenerator_idle {seed : Int} {g : NewGenerator} {e : RequestEnd} {t : State}
    (hg : constructGenerator seed = some g) (needs : e.needsSeed = true) (idle : t.regs.busy = false) :
    ∃ u, restoreGenerator seed e t = some u ∧ u.cfg = t.cfg ∧
      u.regs = { Regs.reset with lfsr := subSeed seed.toNat, seeded := true, errs := t.regs.errs } := by
  refine ⟨t.After (t.regs.seedWith (subSeed seed.toNat)) 0, ?_, rfl, ?_⟩
  · rw [restoreGenerator, if_pos needs, startGenerator_idle hg idle, Option.map_some]
  · rw [State.after_regs, Regs.seedWith, seedValue_subSeed, idle]
    rfl

/-! ## The obligations on the host procedures -/

/-- Settles O54: `REQ` is the count, and DONE comes when `COLL` is `REQ`. -/
theorem completedRequestReturnsExactlyCountBits : Obligations.CompletedRequestReturnsExactlyCountBits :=
  fun _ _ _ _ _ _ run => generateBalancedBits_result_length run

/-- Settles O58: the bits are packed in groups of eight. -/
theorem packedBytesUnpackToTheBits : Obligations.PackedBytesUnpackToTheBits := by
  intro bits whole
  exact packBytes_packsGroups.unpack (n := bits.length / 8) (by omega)

/-- Settles O59: both keystreams are the same, and the XOR and the packing are undone. -/
theorem decryptUndoesEncrypt : Obligations.DecryptUndoesEncrypt := by
  intro seed message cipher cs s t cfg idleT encrypted
  obtain ⟨ks, stream, rfl⟩ := Option.map_eq_some_iff.mp encrypted
  obtain ⟨idleS, length⟩ := keystream_eq_some stream
  have bits : (bitsOfBytes message).length = ks.length := by simp [bitsOfBytes, bitsLsbFirst, length, Nat.mul_comm]
  obtain ⟨nibbles, unpacked⟩ := packNibbles_packsGroups.unpack (n := 2 * message.length)
    (bits := xorBits (bitsOfBytes message) ks) (by simp [xorBits, bits, length]; omega)
  have same : keystream seed (4 * (packNibbles (xorBits (bitsOfBytes message) ks)).length) cs t = some ks := by
    rw [nibbles, ← Nat.mul_assoc, keystream_congr cfg.symm idleS idleT]
    exact stream
  rw [decryptNibbles, same, Option.map_some, bitsOfNibbles, unpacked, xorBits_xorBits bits]
  exact congrArg some (packBytes_packsGroups.pack_flatMap message)

/-- Settles O60: the two ends of a request that fails, and `SEED` after either. -/
theorem failedRequestIsDiscardedAndReseeded : Obligations.FailedRequestIsDiscardedAndReseeded := by
  intro seed g count cs left s t e hg run needs
  have ends := generateOrCancel_ends count cs s
  rw [run] at ends
  rcases ends with done | ⟨rfl, ended⟩ | ⟨u, cancelled, carried⟩
  · simp [needs] at done
  · obtain ⟨v, restored, cfg, regs⟩ := restoreGenerator_idle hg needs ended.busy
    exact ⟨nofun, ended.busy, ended.balcnt, fun _ => ⟨ended.status, ended.errs⟩, nofun,
      v, restored, cfg.trans ended.cfg, regs⟩
  · cases cancelled
    obtain ⟨v, restored, cfg, regs⟩ := restoreGenerator_idle (t := u.After u.regs.cancelRequest 0) hg needs rfl
    exact ⟨nofun, rfl, carried.balcnt, nofun, fun _ => ⟨rfl, carried.errs, carried.lfsr, carried.rawcnt⟩,
      v, restored, cfg.trans carried.cfg, regs⟩

end Sys2Proof.Machine
end
